-- ==== Sys2Proof/Word.lean ====
section
/-! DEFINITION. The word types of the HPC block (10_state.md R20): every register holds an unsigned integer (R11). -/

namespace Sys2Proof

/-- A byte: a sample, a set point, a glyph column, a byte on the display link. -/
abbrev Byte := BitVec 8

/-- An op word (30_encoding.md R71). -/
abbrev OpWord := BitVec 16

end Sys2Proof
end

