-- ==== Sys2Proof/Syntax.lean ====
section
/-! DEFINITION. The operations of the block, one constructor for each row of spec/opcode_table.json, and the codes
that spell them: op words (30_encoding.md R71), bytes of a transaction (R75 to R77) and clock pulses (R82). -/

namespace Sys2Proof

/-- One constructor per row of the opcode table, in the table's order.
The operands are the fields of the encoding as they stand; whether they are legal is said by `Instr.wellFormed`. -/
inductive Instr where
  /-- `SETCUR col, row` (43_display_dispatch.md R126). -/
  | setcur (row : BitVec 3) (col : Byte)
  /-- `PUTCH c` (R127). -/
  | putch (c : Byte)
  /-- `CLEAR` (R128). -/
  | clear
  /-- `DINIT` (R129). -/
  | dinit
  /-- `RDTEMP` (40_sensors.md R92). -/
  | rdtemp
  /-- `RDVOLT` (R93). -/
  | rdvolt
  /-- `DECIDE` (41_actuator.md R100). -/
  | decideOp
  /-- `EDIT SPra` (44_phases.md R146). -/
  | edit (ra : BitVec 3)
  /-- `HEAT SPra, stop|nostop` (R142). -/
  | heat (stop : Bool) (ra : BitVec 3)
  /-- `HOLD SPra, SPrb` (R143). -/
  | hold (ra rb : BitVec 3)
  /-- `COOL` (R144). -/
  | cool
  /-- `FAULTW` (R145). -/
  | faultw
  /-- `END` (R148). -/
  | endOp
  /-- `LOADSP SPra` (R147). -/
  | loadsp (ra : BitVec 3)
  /-- `DRIVE` (41_actuator.md R104). -/
  | drive
  /-- `HDR`: the header byte of a transaction (30_encoding.md R75): address and stream bit. -/
  | hdr (addr : BitVec 7) (stream : Bool)
  /-- `CMD_PAGE` (R76). -/
  | cmdPage (row : BitVec 3)
  /-- `CMD_COLH` (R76). -/
  | cmdColh (high : BitVec 4)
  /-- `CMD_COLL` (R76). -/
  | cmdColl (low : BitVec 4)
  /-- `DATA`: a payload byte of a data transaction (R77). -/
  | data (d : Byte)
  /-- `TXBIT`: one data bit on one clock pulse (42_display_wire.md R114). -/
  | txbit (b : Bool)
  /-- `TXBYTE`: a byte and its acknowledge slot (R115). -/
  | txbyte (v : Byte)
  deriving DecidableEq, Repr

/-- What a byte of a transaction is, by its place in it (42_display_wire.md R117, R118). -/
inductive ByteRole where
  | header | command | data
  deriving DecidableEq, Repr

/-- A code of the wire level: a byte in its place, one clock pulse, or the nine pulses of a byte with the first
pulse in the highest bit (30_encoding.md R82). -/
inductive LinkCode where
  | byte (role : ByteRole) (b : Byte)
  | pulse (b : Bool)
  | frame (pulses : BitVec 9)
  deriving DecidableEq, Repr

/-- A code of either level of encoding (30_encoding.md R70). -/
inductive Code where
  | op (w : OpWord)
  | link (c : LinkCode)
  deriving DecidableEq, Repr

end Sys2Proof
end

