-- ==== Sys2Proof/WellFormed.lean ====
section
/-! DEFINITION. Which operands are legal (30_encoding.md R73, R74). -/

namespace Sys2Proof

/-- Why a code or an operand has no meaning (R74): the names of `refuse(...)` in 60_exceptions.md R183, and two for
wire-level codes that are not of the table. -/
inductive Defect where
  /-- An op word without a meaning, or a register index out of range (R74). -/
  | illegalOp
  /-- `PUTCH` of a character outside 32..126 (R74, R127). -/
  | badChar
  /-- `SETCUR` with a column above 127 (R74, R126). -/
  | badColumn
  /-- A byte of a command stream that is none of R76. -/
  | badCommand
  /-- Nine pulses whose last is not the released data line (R82). -/
  | badFrame
  deriving DecidableEq, Repr

/-- What is wrong with an operation's operands, if anything (R73, R74). -/
def Instr.defect : Instr → Option Defect
  | .setcur _ col => if col.toNat ≤ 127 then none else some .badColumn
  | .putch c => if 32 ≤ c.toNat ∧ c.toNat ≤ 126 then none else some .badChar
  | .edit ra => if ra.toNat ≤ 4 then none else some .illegalOp
  | .heat _ ra => if ra.toNat ≤ 2 then none else some .illegalOp
  | .hold ra rb => if ra.toNat ≤ 2 ∧ (rb.toNat = 3 ∨ rb.toNat = 4) then none else some .illegalOp
  | .loadsp ra => if ra.toNat ≤ 4 then none else some .illegalOp
  | .clear | .dinit | .rdtemp | .rdvolt | .decideOp | .cool | .faultw | .endOp | .drive => none
  | .hdr _ _ | .cmdPage _ | .cmdColh _ | .cmdColl _ | .data _ | .txbit _ | .txbyte _ => none

/-- The operation's operands are legal. -/
def Instr.wellFormed (i : Instr) : Bool := i.defect.isNone

end Sys2Proof
end

