-- ==== Sys2Proof/Decode.lean ====
section
/-! DEFINITION. Decoding and encoding: op words (30_encoding.md R71 to R74), bytes of a transaction (R75 to R77),
clock pulses (R82). -/

namespace Sys2Proof

/-- Bits 15:12, the operation code (R71). -/
def opField (w : OpWord) : BitVec 4 := w.extractLsb' 12 4

/-- Bit 11, `stopOnReached` (R71). -/
def sField (w : OpWord) : Bool := w.getLsbD 11

/-- Bits 10:8, a register index or a display row (R71). -/
def raField (w : OpWord) : BitVec 3 := w.extractLsb' 8 3

/-- Bits 7:0, a column, a character or `HOLD`'s duration register (R71). -/
def immField (w : OpWord) : Byte := w.extractLsb' 0 8

/-- The op word with the given fields (R71). -/
def mkWord (op : BitVec 4) (s : Bool) (ra : BitVec 3) (imm : Byte) : OpWord :=
  op ++ BitVec.ofBool s ++ ra ++ imm

/-- `HOLD`'s duration register: `imm8[2:0]` (R71). -/
def rbField (imm : Byte) : BitVec 3 := imm.extractLsb' 0 3

/-- The operation that the operation code and the operand fields spell, before any check of them; none for code 0
(R72). -/
def fieldsInstr (op : BitVec 4) (s : Bool) (ra : BitVec 3) (imm : Byte) : Option Instr :=
  match op.toNat with
  | 0x1 => some (.setcur ra imm)
  | 0x2 => some (.putch imm)
  | 0x3 => some .clear
  | 0x4 => some .dinit
  | 0x5 => some .rdtemp
  | 0x6 => some .rdvolt
  | 0x7 => some .decideOp
  | 0x8 => some (.edit ra)
  | 0x9 => some (.heat s ra)
  | 0xA => some (.hold ra (rbField imm))
  | 0xB => some .cool
  | 0xC => some .faultw
  | 0xD => some .endOp
  | 0xE => some (.loadsp ra)
  | 0xF => some .drive
  | _ => none

/-- The op word of an operation, from the table of R72; none for a wire-level element. -/
def encodeOp : Instr → Option OpWord
  | .setcur row col => some (mkWord 0x1 false row col)
  | .putch c => some (mkWord 0x2 false 0 c)
  | .clear => some (mkWord 0x3 false 0 0)
  | .dinit => some (mkWord 0x4 false 0 0)
  | .rdtemp => some (mkWord 0x5 false 0 0)
  | .rdvolt => some (mkWord 0x6 false 0 0)
  | .decideOp => some (mkWord 0x7 false 0 0)
  | .edit ra => some (mkWord 0x8 false ra 0)
  | .heat stop ra => some (mkWord 0x9 stop ra 0)
  | .hold ra rb => some (mkWord 0xA false ra (rb.setWidth 8))
  | .cool => some (mkWord 0xB false 0 0)
  | .faultw => some (mkWord 0xC false 0 0)
  | .endOp => some (mkWord 0xD false 0 0)
  | .loadsp ra => some (mkWord 0xE false ra 0)
  | .drive => some (mkWord 0xF false 0 0)
  | .hdr _ _ | .cmdPage _ | .cmdColh _ | .cmdColl _ | .data _ | .txbit _ | .txbyte _ => none

/-- A field that the operation does not use is zero (R71, R74). -/
def unusedFieldsZero (op : BitVec 4) (s : Bool) (ra : BitVec 3) (imm : Byte) : Bool :=
  match op.toNat with
  | 0x1 => !s
  | 0x2 => !s && ra == 0
  | 0x8 | 0xE => !s && imm == 0
  | 0x9 => imm == 0
  | 0xA => !s && imm.extractLsb' 3 5 == 0
  | _ => !s && ra == 0 && imm == 0

/-- Decode an op word, or name what is wrong with it (R72 to R74). -/
def decodeOp (w : OpWord) : Except Defect Instr :=
  match fieldsInstr (opField w) (sField w) (raField w) (immField w) with
  | none => .error .illegalOp
  | some i =>
    if unusedFieldsZero (opField w) (sField w) (raField w) (immField w) then
      match i.defect with
      | none => .ok i
      | some d => .error d
    else .error .illegalOp

/-- `HDR(stream) = {addr[6:0], stream}` (R75). -/
def headerByte (addr : BitVec 7) (stream : Bool) : Byte := addr ++ BitVec.ofBool stream

/-- `1011 0rrr` (R76). -/
def pageByte (row : BitVec 3) : Byte := 0b10110#5 ++ row

/-- `0001 hhhh` (R76). -/
def colHighByte (high : BitVec 4) : Byte := 0b0001#4 ++ high

/-- `0000 llll` (R76). -/
def colLowByte (low : BitVec 4) : Byte := 0b0000#4 ++ low

/-- The nine pulses of a byte: its bits, most significant first, and the released acknowledge slot (R82). -/
def framePulses (v : Byte) : BitVec 9 := v ++ 1#1

/-- A byte of a command stream (R76). -/
def decodeCommand (b : Byte) : Except Defect Instr :=
  if b.extractLsb' 3 5 == 0b10110#5 then .ok (.cmdPage (b.extractLsb' 0 3))
  else if b.extractLsb' 4 4 == 0b0001#4 then .ok (.cmdColh (b.extractLsb' 0 4))
  else if b.extractLsb' 4 4 == 0b0000#4 then .ok (.cmdColl (b.extractLsb' 0 4))
  else .error .badCommand

/-- Decode a code of the wire level (R75 to R77, R82); a byte means what its place in the transaction says. -/
def decodeLink : LinkCode → Except Defect Instr
  | .byte .header b => .ok (.hdr (b.extractLsb' 1 7) (b.getLsbD 0))
  | .byte .command b => decodeCommand b
  | .byte .data b => .ok (.data b)
  | .pulse b => .ok (.txbit b)
  | .frame p => if p.getLsbD 0 then .ok (.txbyte (p.extractLsb' 1 8)) else .error .badFrame

/-- Decode a code of either level: total, every rejection named. -/
def decode : Code → Except Defect Instr
  | .op w => decodeOp w
  | .link c => decodeLink c

/-- The wire-level code of an instruction; none for an operation that has an op word. -/
def encodeLink : Instr → Option LinkCode
  | .hdr a s => some (.byte .header (headerByte a s))
  | .cmdPage r => some (.byte .command (pageByte r))
  | .cmdColh h => some (.byte .command (colHighByte h))
  | .cmdColl l => some (.byte .command (colLowByte l))
  | .data d => some (.byte .data d)
  | .txbit b => some (.pulse b)
  | .txbyte v => some (.frame (framePulses v))
  | .setcur _ _ | .putch _ | .clear | .dinit | .rdtemp | .rdvolt | .decideOp | .edit _ | .heat _ _ | .hold _ _
  | .cool | .faultw | .endOp | .loadsp _ | .drive => none

/-- The code that spells an instruction. Every instruction has exactly one of the two kinds; the last arm is never
taken (`Laws.encode_total`). -/
def encode (i : Instr) : Code :=
  match encodeOp i, encodeLink i with
  | some w, _ => .op w
  | none, some c => .link c
  | none, none => .op 0

/-- The role in which a byte that stands alone is read: a header where it is one of the two header bytes that the
table's note names for the reference instance, a command byte where it has a pattern of R76, and a data byte otherwise.
DESIGN CHOICE (log 13): the table's HDR and DATA rows fix no bit, so a lone byte does not tell its place. -/
def loneRole (b : Byte) : ByteRole :=
  if b = 0x78#8 ∨ b = 0x79#8 then .header
  else
    match decodeCommand b with
    | .ok _ => .command
    | .error _ => .data

/-- The code whose bits are `w`, for a row of `nbits` bits: 16 an op word, 8 a byte, 1 a pulse (TXBIT), 9 the pulses
of TXBYTE; none for a number that does not fit. -/
def tableCode (nbits w : Nat) : Option Code :=
  if w < 2 ^ nbits then
    match nbits with
    | 16 => some (.op (BitVec.ofNat 16 w))
    | 8 => some (.link (.byte (loneRole (BitVec.ofNat 8 w)) (BitVec.ofNat 8 w)))
    | 1 => some (.link (.pulse (w == 1)))
    | 9 => some (.link (.frame (BitVec.ofNat 9 w)))
    | _ => none
  else none

/-- What the decoder reads from an instruction whose bits are `w`. An op word is fetched whole (20_memory.md R56), so
the table's numbering is the hardware's. -/
def decodeTableWord (nbits w : Nat) : Option Instr :=
  match tableCode nbits w with
  | none => none
  | some c => (decode c).toOption

end Sys2Proof
end

