-- ==== Sys2Proof/Config.lean ====
section
/-! DEFINITION. The constants the source fixes (00_scope.md R7), the parameters it leaves open (R8) and the free
values of the environment (R12). Nothing in Lean can evaluate an open parameter or a free value. -/

namespace Sys2Proof

/-- `N_TEMP`: acquisitions per temperature reading (R7). -/
def Config.nTemp : Nat := 100
/-- `N_VOLT`: acquisitions per voltage reading (R7). -/
def Config.nVolt : Nat := 20
/-- `MIN_MV`: the safety floor of the supply, in mV (R7). -/
def Config.minMv : Nat := 2000
/-- `PAGES`: row pages of the display (R7). -/
def Config.pages : Nat := 8
/-- `COLS`: pixel columns of the display (R7). -/
def Config.cols : Nat := 128
/-- `DISP_H`: the height of the display in pixels (R7); a page is 8 pixel rows, `64 / 8` (43_display_dispatch.md R131). -/
def Config.dispH : Nat := 64
/-- `GLYPH_W`: bytes per glyph (R7). -/
def Config.glyphW : Nat := 6
/-- `FONT_BASE`: the glyph index of `c` is `c - 32` (R7). -/
def Config.fontBase : Nat := 32

/-- `SP_MIN[i]` (10_state.md R21). -/
def Config.spMin (i : Fin 5) : Byte := if i.val ≤ 2 then 50 else 0
/-- `SP_MAX[i]` (10_state.md R21). -/
def Config.spMax (i : Fin 5) : Byte := if i.val ≤ 2 then 180 else 255

/-- The operations that render (43_display_dispatch.md R132). -/
inductive PhaseOp where
  | edit | heat | hold | cool | faultw
  deriving DecidableEq, Repr

/-- The render context (R132). `ra` is the set-point index of EDIT, and none for the other operations (log 27). A register
that holds no value, because no rule has written it since reset, is none (10_state.md R39, R40(d), D40; log 31). -/
structure RenderContext where
  op : PhaseOp
  first : Bool
  t : Option Byte
  v : Option (BitVec 16)
  tgt : Option Byte
  cnt : Option Byte
  ra : Option (Fin 5)
  sp : Vector Byte 5
  deriving DecidableEq, Repr

/-- A word that a render list may hold: a legal `SETCUR`, `PUTCH` or `CLEAR` word (R132). -/
def renderWordLegal (w : OpWord) : Bool :=
  match decodeOp w with
  | .ok (.setcur _ _) | .ok (.putch _) | .ok .clear => true
  | _ => false

/-- The rounding of the quotient `a / b` by a choice of direction for the quotients that are no integer
(00_scope.md R8 `RND`): between floor and ceiling, and the identity on integers. -/
def roundWith (up : Nat → Nat → Bool) (a b : Nat) : Nat :=
  a / b + if a % b = 0 then 0 else if up a b then 1 else 0

/-- `FONT_REF` (R9): byte `i` of glyph `g`. -/
def Ref.font (g i : Nat) : Byte := BitVec.ofNat 8 (6 * g + i)

/-- `SP_DEF` of the reference instance (R9). -/
def Ref.spDef (i : Fin 5) : Byte := #v[120, 100, 150, 60, 30][i]

/-- The three decimal digits of `x mod 1000` as characters, most significant first (43_display_dispatch.md R134). -/
def Ref.dec3 (x : Nat) : List Byte :=
  [BitVec.ofNat 8 (48 + x / 100 % 10), BitVec.ofNat 8 (48 + x / 10 % 10), BitVec.ofNat 8 (48 + x % 10)]

/-- The words of `PUTSTR col, row, text` (R130). -/
def putstr (col : Byte) (row : BitVec 3) (text : List Byte) : List OpWord :=
  mkWord 0x1 false row col :: text.map (mkWord 0x2 false 0)

/-- `RENDER_REF` (R134): this spec's invention, used by the test vectors only. -/
def Ref.render (c : RenderContext) : List OpWord :=
  match c.op with
  | .heat | .hold | .cool =>
    match c.t with
    | some t => putstr 0 0 (Ref.dec3 t.toNat)
    | none => []
  | .edit =>
    match c.ra with
    | some i => putstr 0 0 (Ref.dec3 c.sp[i].toNat)
    | none => []
  | .faultw => if c.first then putstr 0 0 [0x4C, 0x4F, 0x57] else []

theorem Ref.round_mono (a b c d : Nat) (hb : 0 < b) (hd : 0 < d) (h : a * d ≤ c * b) :
    roundWith (fun _ _ => false) a b ≤ roundWith (fun _ _ => false) c d := by
  simp only [roundWith, Bool.false_eq_true, if_false, ite_self, Nat.add_zero]
  rw [Nat.le_div_iff_mul_le hd]
  have h1 : a / b * b ≤ a := Nat.div_mul_le_self a b
  have h2 : a / b * d * b ≤ c * b := by
    calc a / b * d * b = a / b * b * d := by ring
      _ ≤ a * d := Nat.mul_le_mul_right d h1
      _ ≤ c * b := h
  exact Nat.le_of_mul_le_mul_right h2 hb

theorem digit_word_legal (n : Nat) : renderWordLegal (mkWord 0x2 false 0 (BitVec.ofNat 8 (48 + n % 10))) = true := by
  have h : n % 10 < 10 := Nat.mod_lt _ (by decide)
  generalize n % 10 = k at h
  interval_cases k <;> decide

theorem dec3_words_legal (x : Nat) (w : OpWord) (h : w ∈ putstr 0 0 (Ref.dec3 x)) : renderWordLegal w = true := by
  simp only [putstr, Ref.dec3, List.map_cons, List.map_nil, List.mem_cons, List.not_mem_nil, or_false] at h
  obtain rfl | rfl | rfl | rfl := h
  · decide
  all_goals exact digit_word_legal _

theorem Ref.render_legal (c : RenderContext) (w : OpWord) (h : w ∈ Ref.render c) : renderWordLegal w = true := by
  unfold Ref.render at h
  split at h
  case h_5 =>
    split at h
    · simp only [putstr, List.map_cons, List.map_nil, List.mem_cons, List.not_mem_nil, or_false] at h
      obtain rfl | rfl | rfl | rfl := h <;> decide
    · simp at h
  all_goals
    split at h
    · exact dec3_words_legal _ w h
    · simp at h

/-- The parameters the source leaves open, with the constraints it puts on them (00_scope.md R8).
The value after each `:=` is the reference instance REF (R9): it only shows that the constraints can be met; no proof
can see which instance `Config.params` is. -/
structure Params where
  /-- `KN` and `KD`: `MV_PER_COUNT = KN/KD` (92_eei_decisions.md D5). -/
  kn : Nat := 20
  kd : Nat := 1
  kn_pos : 0 < kn := by decide
  kd_pos : 0 < kd := by decide
  scale_lt : 255 * kn < 65536 * kd := by decide
  /-- The direction in which `RND` takes a quotient that is no integer (D7). -/
  roundUp : Nat → Nat → Bool := fun _ _ => false
  /-- `RND` is monotone (and so depends on the quotient alone). -/
  round_mono : ∀ a b c d, 0 < b → 0 < d → a * d ≤ c * b → roundWith roundUp a b ≤ roundWith roundUp c d := by
    exact Ref.round_mono
  /-- The largest voltage fits `V`'s 16 bits (40_sensors.md R93, R97). DEDUCED (log 9). -/
  volt_fits : roundWith roundUp (255 * kn) kd < 65536 := by decide
  /-- `DISP_ADDR` (D17). -/
  dispAddr : BitVec 7 := 0x3C
  /-- `FONT`: byte `i` of glyph `g` (D20). -/
  font : Nat → Nat → Byte := Ref.font
  /-- `SP_DEF` (D15). -/
  spDef : Fin 5 → Byte := Ref.spDef
  spDef_range : ∀ i, (Config.spMin i).toNat ≤ (spDef i).toNat ∧ (spDef i).toNat ≤ (Config.spMax i).toNat := by decide
  /-- `RENDER` (D23). -/
  render : RenderContext → List OpWord := Ref.render
  /-- The contract of `RENDER` (43_display_dispatch.md R132). -/
  render_legal : ∀ c w, w ∈ render c → renderWordLegal w = true := by exact Ref.render_legal
  deriving Inhabited

/-- The block's parameters: any that meet the constraints (log 9, log 10, log 11). -/
opaque Config.params : Params

/-- `KN` (R8). -/
def Config.kn : Nat := Config.params.kn
/-- `KD` (R8). -/
def Config.kd : Nat := Config.params.kd
/-- `RND` of the quotient `a / b` (R8). -/
def Config.rnd (a b : Nat) : Nat := roundWith Config.params.roundUp a b
/-- `DISP_ADDR` (R8). -/
def Config.dispAddr : BitVec 7 := Config.params.dispAddr
/-- `FONT[g][i]` (R8, 20_memory.md R52). -/
def Config.font (g i : Nat) : Byte := Config.params.font g i
/-- `SP_DEF[i]` (R8). -/
def Config.spDef (i : Fin 5) : Byte := Config.params.spDef i
/-- `RENDER` (R8, 43_display_dispatch.md R132). -/
def Config.render (c : RenderContext) : List OpWord := Config.params.render c

/-- The two ADC channels (20_memory.md R55). -/
inductive Channel where
  | temp | volt
  deriving DecidableEq, Repr

/-- `CH_TEMP = 0`, `CH_VOLT = 1` (R55). -/
def Channel.id : Channel → Nat
  | .temp => 0
  | .volt => 1

/-- The answer of one `PollInputs`: three levels (10_state.md R35). -/
structure Buttons where
  inc : Bool
  dec : Bool
  sel : Bool
  deriving DecidableEq, Repr, Inhabited

/-- The answer of one `PollMode` (30_encoding.md R78). -/
inductive ModeRequest where
  | none | normal | curve
  deriving DecidableEq, Repr, Inhabited

/-- The codes of the mode request (R78). -/
def ModeRequest.code : ModeRequest → Nat
  | .none => 0
  | .normal => 1
  | .curve => 2

/-- Free value: the sample that an `AdcRead` returns when no answer is queued (40_sensors.md R90, log 2). -/
opaque Config.freeSample : Channel → Nat → Byte
/-- Free value: the answer of a `PollInputs` when none is queued (log 2). -/
opaque Config.freeButtons : Nat → Buttons
/-- Free value: the answer of a `PollMode` when none is queued (log 2). -/
opaque Config.freeMode : Nat → ModeRequest
/-- Free value: the byte a persistent slot holds before anything is stored in it (93_implementation_defined.md U7,
log 3). -/
opaque Config.cfgPowerOn : Nat → Byte

end Sys2Proof
end

