-- ==== Sys2Proof/Machine/State.lean ====
section
/-! DEFINITION. The state of the machine (10_state.md R20 to R41), the events of its trace (00_scope.md R10), the
reasons it can stop, and the state after reset (R39). -/

namespace Sys2Proof.Machine

/-- `DEC`, the result of the last `DECIDE` (10_state.md R27). -/
inductive Decision where
  | deEnergize | energize | fault
  deriving DecidableEq, Repr

/-- The codes of `DEC` (30_encoding.md R78); code 3 is never produced (R27). -/
def Decision.code : Decision → BitVec 2
  | .deEnergize => 0
  | .energize => 1
  | .fault => 2

/-- `TR`, the result of the last tick (10_state.md R31). -/
inductive TickResult where
  | continue | phaseComplete | fault
  deriving DecidableEq, Repr

/-- The codes of `TR` (30_encoding.md R78); code 3 is never produced (R31). -/
def TickResult.code : TickResult → BitVec 2
  | .continue => 0
  | .phaseComplete => 1
  | .fault => 2

/-- `PHASE`, a view of `RUN` and of the operation at `PC` (10_state.md R30). -/
inductive Phase where
  | idle | heat | hold | cool | fault
  deriving DecidableEq, Repr

/-- The codes of `PHASE` (R30). -/
def Phase.code : Phase → BitVec 3
  | .idle => 0
  | .heat => 1
  | .hold => 2
  | .cool => 3
  | .fault => 4

/-- The exception conditions of the block (60_exceptions.md R180). No register holds one: they are labels. -/
inductive ExceptionLabel where
  /-- The trap of a control tick (R181, R186). -/
  | undervoltage
  /-- Handled in place by `LOADSP` (R182). -/
  | configOutOfRange
  deriving DecidableEq, Repr

/-- The codes of the labels (R180). -/
def ExceptionLabel.code : ExceptionLabel → Nat
  | .undervoltage => 1
  | .configOutOfRange => 2

/-- The two lines of the display link (30_encoding.md R78). -/
inductive Line where
  | scl | sda
  deriving DecidableEq, Repr

/-- The codes of the lines (R78). -/
def Line.code : Line → Nat
  | .scl => 0
  | .sda => 1

/-- The levels of the two lines: 1 is high or released (42_display_wire.md R110, 10_state.md R32). -/
structure Levels where
  scl : Bool
  sda : Bool
  deriving DecidableEq, Repr

/-- The events of the trace (00_scope.md R10). -/
inductive Event where
  | adcRead (ch : Channel) (sample : Byte)
  | cfgLoad (slot : Nat) (b : Byte)
  | cfgStore (slot : Nat) (b : Byte)
  | pollInputs (b : Buttons)
  | pollMode (m : ModeRequest)
  | heaterSet (level : Bool)
  | wire (line : Line) (level : Bool)
  | dispInit
  | delayTick
  | delayHold
  deriving DecidableEq, Repr

/-- The side of the block the outside sees: the two lines and the framer's registers behind them (10_state.md R32),
and the event trace (R10), newest event first (log 1). -/
structure Port where
  scl : Bool
  sda : Bool
  shr : Byte
  bitc : BitVec 4
  trace : List Event
  deriving DecidableEq, Repr

/-- The persistent store `CFG`: the slots whose byte is known, with strictly rising slot numbers (20_memory.md R51,
log 3). -/
abbrev Memory := List Host.Cell

/-- The words of the sequencer ROM that differ from 30_encoding.md R81, with strictly rising addresses (log 4). -/
abbrev RomPatch := List (Nat × OpWord)

/-- The environment: the answers it will give, oldest first (00_scope.md R10, R12), and the persistent store
(10_state.md R34). An empty queue answers with a free value, and `draws` counts those (log 2). -/
structure Env where
  tempIn : List Byte
  voltIn : List Byte
  pollIn : List Buttons
  modeIn : List ModeRequest
  draws : Nat
  cfg : Memory
  deriving DecidableEq, Repr

/-- Which of `T`, `V`, `TGT`, `CNT` a rule has written since reset, and so hold a value (10_state.md R39, R40(d),
92_eei_decisions.md D40). These are the registers of the render context; that no other register is read before it is
written needs no record (log 31). -/
structure Written where
  t : Bool
  v : Bool
  tgt : Bool
  cnt : Bool
  deriving DecidableEq, Repr

/-- The state of the machine: the registers of 10_state.md R20, under the spec's names, and the model's own fields
`entered` (log 6), `written` (log 31), `rom` (log 4), `direct` (log 5) and `env` (log 2). -/
structure State where
  /-- `SP[0..4]` (R21). -/
  sp : Vector Byte 5
  /-- `T` (R22). -/
  t : Byte
  /-- `V` (R23). -/
  v : BitVec 16
  /-- `ACC` (R24). -/
  acc : BitVec 16
  /-- `NS` (R24). -/
  ns : BitVec 7
  /-- `TGT` (R25). -/
  tgt : Byte
  /-- `CNT` (R26). -/
  cnt : Byte
  /-- `DEC` (R27). -/
  dec : Decision
  /-- `HEATER` (R28). -/
  heater : Bool
  /-- `PC` (R29). -/
  pc : BitVec 5
  /-- `RUN` (R29). -/
  run : Bool
  /-- `TR` (R31). -/
  tr : TickResult
  /-- `FIRST` (R41). -/
  first : Bool
  /-- The entry of the operation at `PC` has run, so its ticks run (44_phases.md R140, log 6). -/
  entered : Bool
  /-- The registers of the render context that hold a value (R39, R40(d), log 31). -/
  written : Written
  /-- `SCL`, `SDA`, `SHR`, `BITC` (R32) and the trace. -/
  port : Port
  /-- The sequencer ROM, as what differs from R81 (log 4). -/
  rom : RomPatch
  /-- A wire-level code handed to the framer from outside (log 5). -/
  direct : Option LinkCode
  /-- The environment (R34, R35). -/
  env : Env
  deriving DecidableEq, Repr

/-- Why the machine stops with a fault. -/
inductive Fault where
  /-- An operation completes at ROM address 31: there is no next address (10_state.md R29: "address 31 holds no operation
  that completes"; 41_actuator.md R108(c): "`PC + 1` only below 31"). Raised by `completeOp`, for every operation that
  completes. Safe: the fixed ROM never gets there (45_modes.md R168; log 15). -/
  | pastRom
  deriving DecidableEq, Repr

/-- Why a step has no meaning (60_exceptions.md R183): "a model has no step and marks the state refused". -/
inductive Refusal where
  /-- An instruction that this model does not cover yet, by its mnemonic. Raised by no arm of `exec`. Safe. -/
  | notModelled (mnemonic : String)
  /-- `refuse(IllegalOp)`: an illegal op word or a register index out of range (30_encoding.md R74). Raised by the
  fetch, by the render list and by `EDIT`, `HEAT`, `HOLD`, `LOADSP`. Safe. -/
  | illegalOp
  /-- `refuse(BadChar)`: `PUTCH` outside 32..126 (R74, 43_display_dispatch.md R127). Raised by the fetch, by the render
  list and by `PUTCH`. Safe. -/
  | badChar
  /-- `refuse(BadColumn)`: `SETCUR` above 127 (R74, R126). Raised by the fetch, by the render list and by `SETCUR`.
  Safe. -/
  | badColumn
  /-- A code handed to the framer that is none of the table's wire rows (30_encoding.md R76, R82). Raised by
  `runDirect` only. Safe (log 13). -/
  | illegalLinkCode
  deriving DecidableEq, Repr

/-- The outcome of an operation. -/
abbrev Result := Host.Outcome State Fault Refusal

/-- The link registers after reset: idle lines (10_state.md R39); `SHR` and `BITC` are DESIGN CHOICE 0 (log 8). -/
def Port.reset : Port := { scl := true, sda := true, shr := 0, bitc := 0, trace := [] }

/-- The environment of `State.reset`: no answer is queued and no persistent byte is known (log 2, log 3). -/
def Env.reset : Env := { tempIn := [], voltIn := [], pollIn := [], modeIn := [], draws := 0, cfg := [] }

/-- After reset no register of the render context holds a value (10_state.md R39: "unspecified"). -/
def Written.none : Written := { t := false, v := false, tgt := false, cnt := false }

/-- The machine right after reset (10_state.md R39, 70_reset_and_hazards.md R205): `HEATER = 0`, `PC = 0x00`, `RUN = 1`,
the link idle. Every register that R39 leaves "unspecified" is DESIGN CHOICE 0 (log 8). -/
def State.reset : State :=
  { sp := #v[0, 0, 0, 0, 0], t := 0, v := 0, acc := 0, ns := 0, tgt := 0, cnt := 0
    dec := .deEnergize, heater := false, pc := 0, run := true, tr := .continue, first := false
    entered := false, written := Written.none, port := Port.reset, rom := [], direct := none, env := Env.reset }

end Sys2Proof.Machine
end

