-- ==== Sys2Proof/Machine/Ops.lean ====
section
/-! DEFINITION. The named operations over the state: the trace, the environment's answers, the persistent store, the
sequencer ROM, completion of an operation, the under-voltage trap, and reset. -/

namespace Sys2Proof.Machine

/-- Go on with `k` where `r` is a next state. -/
def andThen (r : Result) (k : State → Result) : Result :=
  match r with
  | .next s => k s
  | .fault f => .fault f
  | .refused q => .refused q

/-- The refusal that a defect of a code leads to (60_exceptions.md R183). -/
def refusalOf : Defect → Refusal
  | .illegalOp => .illegalOp
  | .badChar => .badChar
  | .badColumn => .badColumn
  | .badCommand => .illegalLinkCode
  | .badFrame => .illegalLinkCode

/-! ### The trace and the lines -/

/-- `emit e`: append an event to the trace (00_scope.md R12). -/
def Port.emit (e : Event) (p : Port) : Port := { p with trace := e :: p.trace }

/-- `Wire(line, level)`: write a line and emit the event, also when the level does not change
(42_display_wire.md R111). -/
def Port.wire (line : Line) (level : Bool) (p : Port) : Port :=
  match line with
  | .scl => { p with scl := level, trace := .wire .scl level :: p.trace }
  | .sda => { p with sda := level, trace := .wire .sda level :: p.trace }

/-- The link is idle when both lines are 1 (R110). -/
def Port.idle (p : Port) : Bool := p.scl && p.sda

/-- Change nothing but the port. -/
def State.onPort (f : Port → Port) (s : State) : State := { s with port := f s.port }

/-- `emit e` (R12). -/
def State.emit (e : Event) (s : State) : State := s.onPort (Port.emit e)

/-- The trace, oldest event first (00_scope.md R10). -/
def State.events (s : State) : List Event := s.port.trace.reverse

/-- `HEATER <- level; emit HeaterSet(level)`: the output is always written together with its event
(10_state.md R28). -/
def State.setHeater (level : Bool) (s : State) : State := ({ s with heater := level } : State).emit (.heaterSet level)

/-! ### Cells: lists of address and value with strictly rising addresses -/

/-- The value listed at an address. -/
def cellGet {w : Nat} : List (Nat × BitVec w) → Nat → Option (BitVec w)
  | [], _ => none
  | (a, v) :: m, b => if a = b then some v else cellGet m b

/-- List a value at an address, in its place. -/
def cellPut {w : Nat} : List (Nat × BitVec w) → Nat → BitVec w → List (Nat × BitVec w)
  | [], b, x => [(b, x)]
  | (a, v) :: m, b, x =>
    if b < a then (b, x) :: (a, v) :: m
    else if a = b then (b, x) :: m
    else (a, v) :: cellPut m b x

/-- List nothing at an address. -/
def cellErase {w : Nat} : List (Nat × BitVec w) → Nat → List (Nat × BitVec w)
  | [], _ => []
  | (a, v) :: m, b => if a = b then m else (a, v) :: cellErase m b

/-- Every address lies above `lo`, and they rise strictly. -/
def cellsAbove {w : Nat} (lo : Nat) : List (Nat × BitVec w) → Bool
  | [] => true
  | (a, _) :: m => decide (lo ≤ a) && cellsAbove (a + 1) m

/-! ### The persistent store (20_memory.md R51, R62) -/

/-- The canonical form: slots 0..4, strictly rising. An unlisted slot holds no known byte, so no entry equals what an
unlisted slot reads as (log 3). -/
def Memory.wf (m : Memory) : Bool := cellsAbove 0 m && m.all fun c => decide (c.1 < 5)

/-- The byte a slot holds: the byte last stored, or the free value of a slot nothing has stored to (10_state.md R34,
U7, log 3). -/
def Memory.read (m : Memory) (slot : Fin 5) : Byte := (cellGet m slot.val).getD (Config.cfgPowerOn slot.val)

/-- Store a byte in a slot (20_memory.md R51). -/
def Memory.write (m : Memory) (slot : Fin 5) (b : Byte) : Memory := cellPut m slot.val b

/-- `MemRead(CFG, slot, 1)`: emit `CfgLoad(slot) -> b` and return `b` (R51). -/
def State.cfgLoad (slot : Fin 5) (s : State) : Byte × State :=
  (s.env.cfg.read slot, s.emit (.cfgLoad slot.val (s.env.cfg.read slot)))

/-- `MemWrite(CFG, slot, 1, b)`: emit `CfgStore(slot, b)` (R51). -/
def State.cfgStore (slot : Fin 5) (b : Byte) (s : State) : State :=
  ({ s with env := { s.env with cfg := s.env.cfg.write slot b } } : State).emit (.cfgStore slot.val b)

/-! ### The sequencer ROM (20_memory.md R53, 30_encoding.md R81) -/

/-- The words of the fixed ROM, address 0x00 first (R81). -/
def romTable : List OpWord :=
  [0x4000, 0xE000, 0xE100, 0xE200, 0xE300, 0xE400, 0xD000] ++          -- BOOT
  [0xC000, 0xD000] ++                                                  -- FAULT
  [0x0000, 0x0000, 0x0000, 0x0000, 0x0000, 0x0000, 0x0000] ++          -- unused
  [0x8000, 0x9000, 0xB000, 0xD000] ++                                  -- NORMAL
  [0x8100, 0x8300, 0x8200, 0x8400, 0x9900, 0xA103, 0x9A00, 0xA204, 0xB000, 0xD000] ++  -- CURVE
  [0x0000, 0x0000]                                                     -- unused

/-- The fixed ROM word at an address (R81). -/
def romWord (a : Nat) : OpWord := romTable.getD a 0

/-- The canonical form of a patch: addresses 0..31, strictly rising, no entry equal to the fixed word (log 4). -/
def RomPatch.wf (m : RomPatch) : Bool :=
  cellsAbove 0 m && m.all fun c => decide (c.1 < 32) && decide (c.2 ≠ romWord c.1)

/-- The ROM word at an address. -/
def RomPatch.read (m : RomPatch) (a : Nat) : OpWord := (cellGet m a).getD (romWord a)

/-- Patch a ROM word. No operation does this (20_memory.md R53); `withFetchWord` does (log 4, log 24). -/
def RomPatch.write (m : RomPatch) (a : Nat) (w : OpWord) : RomPatch :=
  if w = romWord a then cellErase m a else cellPut m a w

/-- The op word at `PC` (10_state.md R29). -/
def State.fetch (s : State) : OpWord := s.rom.read s.pc.toNat

/-- The reset vector (30_encoding.md R81). -/
def resetVector : BitVec 5 := 0x00
/-- The fault vector (R81). -/
def faultVector : BitVec 5 := 0x07
/-- The entry of NORMAL (R81). -/
def normalEntry : BitVec 5 := 0x10
/-- The entry of CURVE (R81). -/
def curveEntry : BitVec 5 := 0x14

/-- The phase that an operation at `PC` shows (10_state.md R30). R30 has a row for the nine operations of the sequencer ROM
only. A word that is illegal, or that is `SETCUR`, `PUTCH`, `CLEAR`, `RDTEMP`, `RDVOLT`, `DECIDE` or `DRIVE`, shows Idle:
DESIGN CHOICE (log 29). -/
def phaseOf : Except Defect Instr → Phase
  | .ok (.heat _ _) => .heat
  | .ok (.hold _ _) => .hold
  | .ok .cool => .cool
  | .ok .faultw => .fault
  | _ => .idle

/-- `PHASE` (R30). -/
def State.phase (s : State) : Phase := if s.run then phaseOf (decodeOp s.fetch) else .idle

/-! ### The environment's answers (00_scope.md R10, R12) -/

/-- One answer of `AdcRead(ch)`: the next queued sample, or a free value (40_sensors.md R90, log 2). -/
def Env.sample (ch : Channel) (e : Env) : Byte × Env :=
  match ch with
  | .temp =>
    match e.tempIn with
    | x :: rest => (x, { e with tempIn := rest })
    | [] => (Config.freeSample .temp e.draws, { e with draws := e.draws + 1 })
  | .volt =>
    match e.voltIn with
    | x :: rest => (x, { e with voltIn := rest })
    | [] => (Config.freeSample .volt e.draws, { e with draws := e.draws + 1 })

/-- One answer of `PollInputs` (44_phases.md R150, log 2). -/
def Env.buttons (e : Env) : Buttons × Env :=
  match e.pollIn with
  | x :: rest => (x, { e with pollIn := rest })
  | [] => (Config.freeButtons e.draws, { e with draws := e.draws + 1 })

/-- One answer of `PollMode` (45_modes.md R165, log 2). -/
def Env.mode (e : Env) : ModeRequest × Env :=
  match e.modeIn with
  | x :: rest => (x, { e with modeIn := rest })
  | [] => (Config.freeMode e.draws, { e with draws := e.draws + 1 })

/-- `PollInputs() -> (inc, dec, sel)` (R10). -/
def State.pollInputs (s : State) : Buttons × State :=
  (s.env.buttons.1, ({ s with env := s.env.buttons.2 } : State).emit (.pollInputs s.env.buttons.1))

/-- `PollMode() -> m` (R10). -/
def State.pollMode (s : State) : ModeRequest × State :=
  (s.env.mode.1, ({ s with env := s.env.mode.2 } : State).emit (.pollMode s.env.mode.1))

/-! ### Completion, the trap, reset -/

/-- An operation completes: `PC <- PC + 1`, and the operation there has its entry still to run (44_phases.md R140,
45_modes.md R168). Past address 31 there is no operation (log 15). -/
def completeOp (s : State) : Result :=
  if s.pc = 31#5 then .fault .pastRom
  else .next { s with pc := s.pc + 1, entered := false }

/-- `raise Undervoltage`, the trap entry (60_exceptions.md R186): the heater is switched off with its event, `PC` goes to
the fault vector, and `FAULTW` is entered with `FIRST = 1`. Nothing is saved; `RUN` stays. -/
def raiseUndervoltage (s : State) : State :=
  { s.setHeater false with pc := faultVector, first := true, entered := true }

/-- The return from the trap is no operation of its own: `END` "return[s] to the top-level mode-select state", never into
the abandoned pipeline (60_exceptions.md R187, 44_phases.md R148). -/
def returnToIdle (s : State) : State := { s with run := false, entered := false }

/-- The reset input (70_reset_and_hazards.md R205, R209): every register as after power-on. What is outside the block
stays: the environment with its persistent bytes, the fixed ROM, and the trace seen so far (log 25). -/
def State.applyReset (s : State) : State :=
  { State.reset with
    port := { Port.reset with trace := s.port.trace }, rom := s.rom, env := s.env }

end Sys2Proof.Machine
end

