-- ==== Sys2Proof/Machine/Operands.lean ====
section
/-! DEFINITION. Every operand form of the operations (30_encoding.md R71, R73): set-point, target and duration registers,
columns, rows, characters, and the glyph address (20_memory.md R52). -/

namespace Sys2Proof.Machine

/-- A set-point index: 0..4 (R73). -/
def setPointIndex (ra : BitVec 3) : Option (Fin 5) := if h : ra.toNat < 5 then some ⟨ra.toNat, h⟩ else none

/-- A target register of `HEAT` or `HOLD`: a temperature, 0..2 (R73). -/
def targetIndex (ra : BitVec 3) : Option (Fin 5) :=
  if h : ra.toNat ≤ 2 then some ⟨ra.toNat, by omega⟩ else none

/-- A duration register of `HOLD`: 3 or 4 (R73). -/
def durationIndex (rb : BitVec 3) : Option (Fin 5) :=
  if h : rb.toNat = 3 ∨ rb.toNat = 4 then some ⟨rb.toNat, by omega⟩ else none

/-- A pixel column: 0..127 (R73). -/
def columnLegal (col : Byte) : Bool := decide (col.toNat ≤ 127)

/-- A printable character: 32..126 (R73). -/
def charLegal (c : Byte) : Bool := decide (32 ≤ c.toNat ∧ c.toNat ≤ 126)

/-- The high nibble of a column (30_encoding.md R76). -/
def columnHigh (col : Byte) : BitVec 4 := col.extractLsb' 4 4

/-- The low nibble of a column (R76). -/
def columnLow (col : Byte) : BitVec 4 := col.extractLsb' 0 4

/-- The six bytes of the glyph of `c`, in index order: `FONT[c - 32][0..5]` (20_memory.md R52, R56(d)). -/
def glyphBytes (c : Byte) : List Byte :=
  (List.range Config.glyphW).map fun i => Config.font (c.toNat - Config.fontBase) i

end Sys2Proof.Machine
end

