-- ==== Sys2Proof/Machine/Flags.lean ====
section
/-! DEFINITION. The decision `DEC`, the tick result `TR` and the flag `FIRST` (10_state.md R27, R31, R36, R41): the block
has no other flag-like state. -/

namespace Sys2Proof.Machine

/-- `decide(measured, target, supply)` (41_actuator.md R100, R103): the under-voltage test first, then one threshold.
All comparisons are unsigned. -/
def bangBang (t tgt : Byte) (v : BitVec 16) : Decision :=
  if v.toNat < Config.minMv then .fault
  else if t.toNat < tgt.toNat then .energize
  else .deEnergize

/-- `reached = (T >= TGT)`, computed and used inside one tick (10_state.md R36). -/
def reached (t tgt : Byte) : Bool := decide (tgt.toNat ≤ t.toNat)

/-- The entry of a phase operation: `FIRST <- 1`, and its ticks follow (44_phases.md R140, 10_state.md R41). -/
def markEntered (s : State) : State := { s with first := true, entered := true }

/-- The end of a tick that goes on: `TR <- Continue`, `FIRST <- 0` (R140). -/
def tickContinues (s : State) : State := { s with tr := .continue, first := false }

/-- The end of a tick that ends the phase: `TR <- PhaseComplete`, the tick was not the first any more (R41, log 16), and
the operation completes (R140). -/
def phaseCompletes (s : State) : Result := completeOp { s with tr := .phaseComplete, first := false }

end Sys2Proof.Machine
end

