-- ==== Sys2Proof/Machine/Actuator.lean ====
section
/-! DEFINITION. The actuator unit: `DECIDE`, `DRIVE` (41_actuator.md R100 to R107). -/

namespace Sys2Proof.Machine

/-- `DECIDE` (R100): writes `DEC` from `T`, `TGT`, `V`. -/
def State.decideHeat (s : State) : State := { s with dec := bangBang s.t s.tgt s.v }

/-- `DRIVE` (R104): `HEATER <- (DEC = Energize)`, with its event in every case. The precondition that `DEC` is not `Fault`
is the control tick's; `DRIVE` alone takes the rule's `else` (log 18). -/
def State.driveHeater (s : State) : State := s.setHeater (s.dec == .energize)

/-- The meaning of `DECIDE` (R100). -/
def execDecide (s : State) : Result := .next s.decideHeat

/-- The meaning of `DRIVE` (R104). -/
def execDrive (s : State) : Result := .next s.driveHeater

end Sys2Proof.Machine
end

