-- ==== Sys2Proof/Machine/Link.lean ====
section
/-! DEFINITION. The display link at wire level: frame elements, transactions, and the meanings of the byte and wire rows of
the table (42_display_wire.md R110 to R121, 30_encoding.md R75 to R77). -/

namespace Sys2Proof.Machine

/-- `START` (R112): data falls while the clock is high, then the clock goes low. -/
def Port.start (p : Port) : Port := (p.wire .sda false).wire .scl false

/-- `STOP` (R113): data low, clock high, data rises while the clock is high. -/
def Port.stop (p : Port) : Port := ((p.wire .sda false).wire .scl true).wire .sda true

/-- `TXBIT(b)` (R114): one data bit on one clock pulse. -/
def Port.txBit (b : Bool) (p : Port) : Port := ((p.wire .sda b).wire .scl true).wire .scl false

/-- One of the nine pulses of a byte: `BITC` counts the pulses left (10_state.md R32). -/
def Port.pulse (b : Bool) (p : Port) : Port := { p.txBit b with bitc := p.bitc - 1 }

/-- `TXBYTE(v)` (R115): `SHR <- v`, eight pulses with the bits of `SHR`, most significant first, and a ninth pulse with
the data line released. Nothing is sampled (R116). -/
def Port.txByte (v : Byte) (p : Port) : Port :=
  ([7, 6, 5, 4, 3, 2, 1, 0].foldl (fun (q : Port) (i : Nat) => q.pulse (q.shr.getLsbD i)) { p with shr := v, bitc := 9 }).pulse true

/-- `TXBYTE` of each byte, in list order (R117). -/
def Port.txBytes (bytes : List Byte) (p : Port) : Port := bytes.foldl (fun (q : Port) (b : Byte) => q.txByte b) p

/-- `TX(stream, bytes)` (R117): start, the header byte, the payload, stop. R117 defines it for at least one byte; an empty
payload sends start, header and stop: DESIGN CHOICE (log 30). -/
def Port.tx (stream : Bool) (bytes : List Byte) (p : Port) : Port :=
  ((p.start.txByte (headerByte Config.dispAddr stream)).txBytes bytes).stop

/-- `CMDTX(bytes) = TX(0, bytes)` (R118). -/
def Port.cmdTx (bytes : List Byte) (p : Port) : Port := p.tx false bytes

/-- `DATATX(bytes) = TX(1, bytes)` (R118). -/
def Port.dataTx (bytes : List Byte) (p : Port) : Port := p.tx true bytes

/-! ### Levels and waveform (R121) -/

/-- The levels that the registers `SCL` and `SDA` hold. -/
def Port.levels (p : Port) : Levels := { scl := p.scl, sda := p.sda }

/-- The register values `SCL`, `SDA` after one event (R121): a `Wire` event is the write of its line (R111), `DispInit`
leaves the link idle (43_display_dispatch.md R129), and no other event goes with a write of a line. -/
def Levels.after (l : Levels) : Event → Levels
  | .wire .scl level => { l with scl := level }
  | .wire .sda level => { l with sda := level }
  | .dispInit => { scl := true, sda := true }
  | .adcRead _ _ | .cfgLoad _ _ | .cfgStore _ _ | .pollInputs _ | .pollMode _ | .heaterSet _ | .delayTick | .delayHold => l

/-- The register values after each event of a list that starts at the levels `l` (R121). -/
def levelsAlong : Levels → List Event → List Levels
  | _, [] => []
  | l, e :: evs => l.after e :: levelsAlong (l.after e) evs

/-- The register values after the last event of a list. -/
def levelsAfter (l : Levels) (evs : List Event) : Levels := evs.foldl Levels.after l

/-- The waveform on the pins from the levels `l`: the `Wire` events, without the writes that repeat the level their line
already has (R121). -/
def waveform : Levels → List Event → List Event
  | _, [] => []
  | l, .wire line level :: evs =>
    if l.after (.wire line level) = l then waveform l evs
    else .wire line level :: waveform (l.after (.wire line level)) evs
  | l, e :: evs => waveform (l.after e) evs

/-- The meaning of `HDR`: the header byte is sent by `TXBYTE` (R75, R117; log 12, log 13). -/
def execHdr (addr : BitVec 7) (stream : Bool) (s : State) : Result :=
  .next (s.onPort (Port.txByte (headerByte addr stream)))

/-- The meaning of `CMD_PAGE`: the command byte is sent by `TXBYTE` (R76, R118; log 13). -/
def execCmdPage (row : BitVec 3) (s : State) : Result := .next (s.onPort (Port.txByte (pageByte row)))

/-- The meaning of `CMD_COLH` (R76, R118; log 13). -/
def execCmdColh (high : BitVec 4) (s : State) : Result := .next (s.onPort (Port.txByte (colHighByte high)))

/-- The meaning of `CMD_COLL` (R76, R118; log 13). -/
def execCmdColl (low : BitVec 4) (s : State) : Result := .next (s.onPort (Port.txByte (colLowByte low)))

/-- The meaning of `DATA`: a pixel-column byte is sent as it is (R77, R118; log 13). -/
def execData (d : Byte) (s : State) : Result := .next (s.onPort (Port.txByte d))

/-- The meaning of `TXBIT` (R114; log 18). -/
def execTxbit (b : Bool) (s : State) : Result := .next (s.onPort (Port.txBit b))

/-- The meaning of `TXBYTE` (R115; log 18). -/
def execTxbyte (v : Byte) (s : State) : Result := .next (s.onPort (Port.txByte v))

end Sys2Proof.Machine
end

