-- ==== Sys2Proof/Machine/Display.lean ====
section
/-! DEFINITION. The display dispatcher: `SETCUR`, `PUTCH`, `CLEAR`, `DINIT`, and the render list
(43_display_dispatch.md R125 to R133). -/

namespace Sys2Proof.Machine

/-- The three command bytes of `setCursor` (30_encoding.md R76): page, high nibble, low nibble. -/
def cursorBytes (row : BitVec 3) (col : Byte) : List Byte :=
  [pageByte row, colHighByte (columnHigh col), colLowByte (columnLow col)]

/-- `SETCUR` for a legal column: one command transaction (R126). -/
def Port.setCursor (row : BitVec 3) (col : Byte) (p : Port) : Port := p.cmdTx (cursorBytes row col)

/-- `PUTCH` for a printable character: one data transaction of the six glyph bytes (R127). -/
def Port.putChar (c : Byte) (p : Port) : Port := p.dataTx (glyphBytes c)

/-- One page of `CLEAR`: the origin of the page, then 128 zero bytes (R128). -/
def Port.clearPage (page : Nat) (p : Port) : Port :=
  (p.setCursor (BitVec.ofNat 3 page) 0).dataTx (List.replicate Config.cols 0)

/-- `CLEAR`: the pages in ascending order (R128). -/
def Port.clear (p : Port) : Port := (List.range Config.pages).foldl (fun (q : Port) (page : Nat) => q.clearPage page) p

/-- `DINIT`: the opaque bring-up; the link is idle when it returns (R129). -/
def Port.bringUp (p : Port) : Port := { p.emit .dispInit with scl := true, sda := true }

/-- The meaning of `SETCUR` (R126). -/
def execSetcur (row : BitVec 3) (col : Byte) (s : State) : Result :=
  if columnLegal col then .next (s.onPort (Port.setCursor row col)) else .refused .badColumn

/-- The meaning of `PUTCH` (R127). -/
def execPutch (c : Byte) (s : State) : Result :=
  if charLegal c then .next (s.onPort (Port.putChar c)) else .refused .badChar

/-- The meaning of `CLEAR` (R128). -/
def execClear (s : State) : Result := .next (s.onPort Port.clear)

/-- The meaning of `DINIT` (R129): it has no ticks and completes (44_phases.md R140). -/
def execDinit (s : State) : Result := completeOp (s.onPort Port.bringUp)

/-! ### The render list (R132) -/

/-- A register as it stands for a rule that may find it without a value (10_state.md R39, R40(d), 92_eei_decisions.md D40):
its value where a rule has written it since reset, and nothing otherwise. The register is not read then. -/
def asItStands {w : Nat} (written : Bool) (x : BitVec w) : Option (BitVec w) := if written then some x else none

/-- The context that `RENDER` sees (R132): `T`, `V`, `TGT`, `CNT` as they stand, which is without a value where no rule has
written them since reset: a register that holds no value is not read (10_state.md R40(d); log 31). -/
def renderContext (op : PhaseOp) (ra : Option (Fin 5)) (s : State) : RenderContext :=
  { op := op, first := s.first
    t := asItStands s.written.t s.t, v := asItStands s.written.v s.v
    tgt := asItStands s.written.tgt s.tgt, cnt := asItStands s.written.cnt s.cnt
    ra := ra, sp := s.sp }

/-- Why a word of a render list is refused, if it is: it is illegal, or it is no display word (R132, R74). -/
def renderWordRefusal (w : OpWord) : Option Refusal :=
  match decodeOp w with
  | .ok (.setcur _ _) => none
  | .ok (.putch _) => none
  | .ok .clear => none
  | .ok _ => some .illegalOp
  | .error d => some (refusalOf d)

/-- The refusal of the first word of a render list that has no meaning there (R132). -/
def renderRefusal : List OpWord → Option Refusal
  | [] => none
  | w :: ws =>
    match renderWordRefusal w with
    | some r => some r
    | none => renderRefusal ws

/-- Execute one display word (R126 to R128). -/
def drawWord (w : OpWord) (p : Port) : Port :=
  match decodeOp w with
  | .ok (.setcur row col) => p.setCursor row col
  | .ok (.putch c) => p.putChar c
  | .ok .clear => p.clear
  | _ => p

/-- Execute display words in list order (R132). -/
def drawWords (ws : List OpWord) (p : Port) : Port := ws.foldl (fun (q : Port) (w : OpWord) => drawWord w q) p

/-- Execute a render list and go on; "a `RENDER` that returns an illegal word makes the model refuse" (R132). -/
def runRenderList (ws : List OpWord) (s : State) (k : State → Result) : Result :=
  match renderRefusal ws with
  | some r => .refused r
  | none => k (s.onPort (drawWords ws))

/-- `for each word w of RENDER(context): execute w` (44_phases.md R141). -/
def render (op : PhaseOp) (ra : Option (Fin 5)) (s : State) (k : State → Result) : Result :=
  runRenderList (Config.render (renderContext op ra s)) s k

end Sys2Proof.Machine
end

