-- ==== Sys2Proof/Machine/Sensors.lean ====
section
/-! DEFINITION. The sensor unit: `RDTEMP`, `RDVOLT` (40_sensors.md R90 to R99). -/

namespace Sys2Proof.Machine

/-- One acquisition: `ACC <- ACC + AdcRead(ch)`, one sample fewer to take (R92, R93, 10_state.md R24). -/
def State.acquireOne (ch : Channel) (s : State) : State :=
  ({ s with
    acc := s.acc + (s.env.sample ch).1.setWidth 16
    ns := s.ns - 1
    env := (s.env.sample ch).2 } : State).emit (.adcRead ch (s.env.sample ch).1)

/-- `n` acquisitions. -/
def State.acquireMore (ch : Channel) : Nat → State → State
  | 0, s => s
  | n + 1, s => State.acquireMore ch n (s.acquireOne ch)

/-- A block of `n` acquisitions, from `ACC = 0` (R92, R93, R95). -/
def State.acquire (ch : Channel) (n : Nat) (s : State) : State :=
  State.acquireMore ch n { s with acc := 0, ns := BitVec.ofNat 7 n }

/-- The Celsius value of a sum of 100 samples: `(263700*KD - ACC*KN) / (1360*KD)`, rounded once; a negative value is 0
(R91, R92, R94). -/
def celsius (rnd : Nat → Nat → Nat) (kn kd acc : Nat) : Nat :=
  if 263700 * kd < acc * kn then 0 else rnd (263700 * kd - acc * kn) (1360 * kd)

/-- The millivolts of a sum of 20 samples: `ACC*KN / (20*KD)`, rounded once (R91, R93). -/
def millivolts (rnd : Nat → Nat → Nat) (kn kd acc : Nat) : Nat := rnd (acc * kn) (20 * kd)

/-- `RDTEMP` (R92): 100 acquisitions, then the linear transform into `T`. -/
def State.readTemperature (s : State) : State :=
  { s.acquire .temp Config.nTemp with
    t := BitVec.ofNat 8 (celsius Config.rnd Config.kn Config.kd (s.acquire .temp Config.nTemp).acc.toNat)
    written := { s.written with t := true } }

/-- `RDVOLT` (R93): 20 acquisitions, then the scaling into `V`. -/
def State.readVoltage (s : State) : State :=
  { s.acquire .volt Config.nVolt with
    v := BitVec.ofNat 16 (millivolts Config.rnd Config.kn Config.kd (s.acquire .volt Config.nVolt).acc.toNat)
    written := { s.written with v := true } }

/-- The meaning of `RDTEMP` (R92). -/
def execRdtemp (s : State) : Result := .next s.readTemperature

/-- The meaning of `RDVOLT` (R93). -/
def execRdvolt (s : State) : Result := .next s.readVoltage

end Sys2Proof.Machine
end

