-- ==== Sys2Proof/Machine/Phases.lean ====
section
/-! DEFINITION. The sequencer's operations: `EDIT`, `HEAT`, `HOLD`, `COOL`, `FAULTW`, `END`, `LOADSP`, and the control tick
(44_phases.md R140 to R154). A phase operation that has not been entered runs its entry; one that has been entered runs a
tick (R140, log 6). -/

namespace Sys2Proof.Machine

/-- The render list and the one poll that end a tick (R141, R150). -/
def renderAndPoll (op : PhaseOp) (ra : Option (Fin 5)) (s : State) (k : Buttons → State → Result) : Result :=
  render op ra s fun s => k s.pollInputs.1 s.pollInputs.2

/-- A tick that goes on waits: `TR <- Continue; emit DelayTick` (R142, R144, R145, R146, R151). -/
def waitTick (s : State) : Result := .next (tickContinues (s.emit .delayTick))

/-- The end of a tick of a phase that waits with `DelayTick`. -/
def endTick (done : Bool) (s : State) : Result := if done then phaseCompletes s else waitTick s

/-- The readings and the decision of a control tick: `RDTEMP; RDVOLT; DECIDE` (R141). -/
def State.measure (s : State) : State := s.readTemperature.readVoltage.decideHeat

/-- `CTRLTICK` (R141). On `DEC = Fault` the rest of the tick is skipped and the trap is taken (60_exceptions.md R186);
otherwise `DRIVE`, the render list, one poll, and then `k`. -/
def controlTick (op : PhaseOp) (s : State) (k : Buttons → State → Result) : Result :=
  if s.measure.dec = .fault then .next (raiseUndervoltage { s.measure with tr := .fault })
  else renderAndPoll op none s.measure.driveHeater k

/-! ### HEAT (R142) -/

/-- Entry of `HEAT`: `TGT <- SP[ra]` (R142). -/
def heatEntry (i : Fin 5) (s : State) : State :=
  markEntered { s with tgt := s.sp[i], written := { s.written with tgt := true } }

/-- A tick of `HEAT` (R142): Select, or the target with `stopOnReached`, ends the phase. -/
def heatTick (stop : Bool) (s : State) : Result :=
  controlTick .heat s fun b s => endTick (b.sel || (stop && reached s.t s.tgt)) s

/-- The meaning of `HEAT` (R142). -/
def execHeat (stop : Bool) (ra : BitVec 3) (s : State) : Result :=
  match targetIndex ra with
  | none => .refused .illegalOp
  | some i => if s.entered then heatTick stop s else .next (heatEntry i s)

/-! ### HOLD (R143, R152) -/

/-- Entry of `HOLD`: `TGT <- SP[ra]; CNT <- SP[rb]` (R143). -/
def holdEntry (i j : Fin 5) (s : State) : State :=
  markEntered { s with tgt := s.sp[i], cnt := s.sp[j], written := { s.written with tgt := true, cnt := true } }

/-- `CNT <- CNT - 1`, only when `CNT > 0`: it never wraps (10_state.md R26, log 17). -/
def countDown (cnt : Byte) : Byte := if cnt = 0 then 0 else cnt - 1

/-- The end of a Hold tick without cancel: the one-second wait, the countdown, completion at zero (R143). -/
def holdWait (s : State) : Result :=
  if countDown s.cnt = 0 then phaseCompletes { s.emit .delayHold with cnt := countDown s.cnt }
  else .next (tickContinues { s.emit .delayHold with cnt := countDown s.cnt })

/-- A tick of `HOLD` (R143). -/
def holdTick (s : State) : Result :=
  controlTick .hold s fun b s => if b.sel then phaseCompletes s else holdWait s

/-- The meaning of `HOLD` (R143); with a duration of 0 it completes at once, with no tick and no event (R152). -/
def execHold (ra rb : BitVec 3) (s : State) : Result :=
  match targetIndex ra, durationIndex rb with
  | some i, some j =>
    if s.entered then holdTick s
    else if s.sp[j] = 0 then completeOp (holdEntry i j s)
    else .next (holdEntry i j s)
  | _, _ => .refused .illegalOp

/-! ### COOL (R144, R153) -/

/-- Entry of `COOL`: the heater output is written 0, whatever it was (R153). -/
def coolEntry (s : State) : State := markEntered (s.setHeater false)

/-- A tick of `COOL` (R144): the temperature is read and rendered; the supply is not read. -/
def coolTick (s : State) : Result :=
  renderAndPoll .cool none s.readTemperature fun b s => endTick b.sel s

/-- The meaning of `COOL` (R144). -/
def execCool (s : State) : Result := if s.entered then coolTick s else .next (coolEntry s)

/-! ### FAULTW (R145) -/

/-- A tick of `FAULTW` (R145): the warning and the poll, no sample, no decision, no output. -/
def faultTick (s : State) : Result := renderAndPoll .faultw none s fun b s => endTick b.sel s

/-- The meaning of `FAULTW` (R145). -/
def execFaultw (s : State) : Result := if s.entered then faultTick s else .next (markEntered s)

/-! ### EDIT (R146) -/

/-- The value of a set point after one poll: the increment is applied first, then the decrement, each with its own bound
(R146). -/
def editValue (i : Fin 5) (b : Buttons) (x : Byte) : Byte :=
  let y := if b.inc ∧ x.toNat < (Config.spMax i).toNat then x + 1 else x
  if b.dec ∧ (Config.spMin i).toNat < y.toNat then y - 1 else y

/-- `SP[i] <- x` (00_scope.md R12). -/
def State.setSp (i : Fin 5) (x : Byte) (s : State) : State := { s with sp := s.sp.set i x }

/-- The end of a poll of the editor: Select stores the value and completes (R146). -/
def editPoll (i : Fin 5) (b : Buttons) (s : State) : Result :=
  if b.sel then phaseCompletes (s.cfgStore i s.sp[i]) else waitTick s

/-- A tick of `EDIT` (R146). -/
def editTick (i : Fin 5) (s : State) : Result :=
  renderAndPoll .edit (some i) s fun b s => editPoll i b (s.setSp i (editValue i b s.sp[i]))

/-- The meaning of `EDIT` (R146). -/
def execEdit (ra : BitVec 3) (s : State) : Result :=
  match setPointIndex ra with
  | none => .refused .illegalOp
  | some i => if s.entered then editTick i s else .next (markEntered s)

/-! ### LOADSP, END (R147, R148) -/

/-- The set point that a loaded byte gives: the byte where it lies in the closed range, else the default
(R147; the condition `ConfigOutOfRange`, 60_exceptions.md R182). -/
def validated (i : Fin 5) (b : Byte) : Byte :=
  if (Config.spMin i).toNat ≤ b.toNat ∧ b.toNat ≤ (Config.spMax i).toNat then b else Config.spDef i

/-- The meaning of `LOADSP` (R147). -/
def execLoadsp (ra : BitVec 3) (s : State) : Result :=
  match setPointIndex ra with
  | none => .refused .illegalOp
  | some i => completeOp ((s.cfgLoad i).2.setSp i (validated i (s.cfgLoad i).1))

/-- The meaning of `END` (R148): `RUN <- 0`, `PC` is left as it is. -/
def execEnd (s : State) : Result := .next (returnToIdle s)

end Sys2Proof.Machine
end

