-- ==== Sys2Proof/Machine/Dispatch.lean ====
section
/-! DEFINITION. The dispatch: one arm per constructor of Instr. -/

namespace Sys2Proof.Machine

def exec (i : Instr) (s : State) : Host.Outcome State Fault Refusal :=
  match i with
  | .setcur row col => Sys2Proof.Machine.execSetcur row col s
  | .putch c => Sys2Proof.Machine.execPutch c s
  | .clear => Sys2Proof.Machine.execClear s
  | .dinit => Sys2Proof.Machine.execDinit s
  | .rdtemp => Sys2Proof.Machine.execRdtemp s
  | .rdvolt => Sys2Proof.Machine.execRdvolt s
  | .decideOp => Sys2Proof.Machine.execDecide s
  | .edit ra => Sys2Proof.Machine.execEdit ra s
  | .heat stop ra => Sys2Proof.Machine.execHeat stop ra s
  | .hold ra rb => Sys2Proof.Machine.execHold ra rb s
  | .cool => Sys2Proof.Machine.execCool s
  | .faultw => Sys2Proof.Machine.execFaultw s
  | .endOp => Sys2Proof.Machine.execEnd s
  | .loadsp ra => Sys2Proof.Machine.execLoadsp ra s
  | .drive => Sys2Proof.Machine.execDrive s
  | .hdr addr stream => Sys2Proof.Machine.execHdr addr stream s
  | .cmdPage row => Sys2Proof.Machine.execCmdPage row s
  | .cmdColh high => Sys2Proof.Machine.execCmdColh high s
  | .cmdColl low => Sys2Proof.Machine.execCmdColl low s
  | .data d => Sys2Proof.Machine.execData d s
  | .txbit b => Sys2Proof.Machine.execTxbit b s
  | .txbyte v => Sys2Proof.Machine.execTxbyte v s

end Sys2Proof.Machine
end

