-- ==== Sys2Proof/Machine/Fetch.lean ====
section
/-! DEFINITION. How the sequencer runs operations: fetch at `PC`, completion, the entry of the next operation
(44_phases.md R140), the Idle tick (45_modes.md R165), and wire-level codes handed to the framer (log 5). -/

namespace Sys2Proof.Machine

/-- The operations with an entry and ticks (44_phases.md R140). -/
def isPhaseOp : Instr → Bool
  | .edit _ | .heat _ _ | .hold _ _ | .cool | .faultw => true
  | .setcur _ _ | .putch _ | .clear | .dinit | .rdtemp | .rdvolt | .decideOp | .endOp | .loadsp _ | .drive => false
  | .hdr _ _ | .cmdPage _ | .cmdColh _ | .cmdColl _ | .data _ | .txbit _ | .txbyte _ => false

/-- The operations of the sequencer ROM (30_encoding.md R72): their rules themselves say how `PC` moves. The others are
issued by a tick or by a render list; fetched from the ROM they complete like a tickless operation (45_modes.md R168,
log 14). -/
def isSequencerOp : Instr → Bool
  | .dinit | .loadsp _ | .endOp => true
  | .edit _ | .heat _ _ | .hold _ _ | .cool | .faultw => true
  | .setcur _ _ | .putch _ | .clear | .rdtemp | .rdvolt | .decideOp | .drive => false
  | .hdr _ _ | .cmdPage _ | .cmdColh _ | .cmdColl _ | .data _ | .txbit _ | .txbyte _ => false

/-- "fetch the next operation" (R140): where a phase operation stands at `PC` and has not been entered, run its entry.
A `HOLD` of duration 0 completes in its entry, so the entry of the operation after it follows; the ROM has 32 words, so 32
rounds are enough (log 7). -/
def enterFetched : Nat → State → Result
  | 0, s => .next s
  | n + 1, s =>
    if s.run && !s.entered then
      match decodeOp s.fetch with
      | .ok i => if isPhaseOp i then andThen (exec i s) (enterFetched n) else .next s
      | .error _ => .next s
    else .next s

/-- Rounds of `enterFetched`: one for each word of the ROM. -/
def entryRounds : Nat := 32

/-- What follows an operation: an operation that is not the sequencer's own completes, and the operation at the new `PC`
is entered (R140, R168). -/
def afterOp (i : Instr) (s : State) : Result :=
  if isSequencerOp i then enterFetched entryRounds s else andThen (completeOp s) (enterFetched entryRounds)

/-- One step with `RUN = 1`: the operation at `PC`; an illegal word is refused (30_encoding.md R74). -/
def runOp (s : State) : Result :=
  match decodeOp s.fetch with
  | .error d => .refused (refusalOf d)
  | .ok i => andThen (exec i s) (afterOp i)

/-- The Idle tick (45_modes.md R165): one `PollMode`; a request starts its pipeline, none waits. -/
def idleTick (s : State) : State :=
  match s.pollMode.1 with
  | .normal => { s.pollMode.2 with pc := normalEntry, run := true, entered := false }
  | .curve => { s.pollMode.2 with pc := curveEntry, run := true, entered := false }
  | .none => s.pollMode.2.emit .delayTick

/-- One step with `RUN = 0`. -/
def runIdle (s : State) : Result := enterFetched entryRounds (idleTick s)

/-- One step on a wire-level code handed to the framer: the code runs and leaves the slot; `PC` does not move
(log 5). -/
def runDirect (c : LinkCode) (s : State) : Result :=
  match decodeLink c with
  | .error d => .refused (refusalOf d)
  | .ok i => exec i { s with direct := none }

/-- One step: a code in the framer's slot first, then the running operation, then Idle. -/
def runStep (s : State) : Result :=
  match s.direct with
  | some c => runDirect c s
  | none => if s.run then runOp s else runIdle s

/-- Put a code where the next step finds it: an op word in the ROM at `PC`, with a pipeline running and the operation's
entry still to run; a wire-level code in the framer's slot (log 24). -/
def State.place (s : State) : Code → State
  | .op w => { s with rom := s.rom.write s.pc.toNat w, run := true, entered := false, direct := none }
  | .link c => { s with direct := some c }

end Sys2Proof.Machine
end

