-- ==== Sys2Proof/Safety.lean ====
section
/-! DEFINITION. The terms in which claims about the block are stated: what a run must keep (10_state.md R40), and the
events of the link and of a reading written out as lists, independently of the operations that emit them. -/

namespace Sys2Proof.Machine

/-! ### Events -/

/-- The events that `t` has emitted after `s`, oldest first. -/
def Emitted (evs : List Event) (s t : State) : Prop := t.port.trace = evs.reverse ++ s.port.trace

/-- The writes of one clock pulse with data level `b` (42_display_wire.md R114). -/
def bitEvents (b : Bool) : List Event := [.wire .sda b, .wire .scl true, .wire .scl false]

/-- The 27 writes of a byte: bit 7 first, bit 0 last, then the released acknowledge slot (R115). -/
def byteEvents (v : Byte) : List Event :=
  bitEvents v[7] ++ bitEvents v[6] ++ bitEvents v[5] ++ bitEvents v[4] ++ bitEvents v[3] ++ bitEvents v[2] ++
    bitEvents v[1] ++ bitEvents v[0] ++ bitEvents true

/-- The writes of a start condition (R112). -/
def startEvents : List Event := [.wire .sda false, .wire .scl false]

/-- The writes of a stop condition (R113). -/
def stopEvents : List Event := [.wire .sda false, .wire .scl true, .wire .sda true]

/-- The writes of a transaction: start, header, payload, stop (R117). -/
def txEvents (stream : Bool) (bytes : List Byte) : List Event :=
  startEvents ++ byteEvents (headerByte Config.dispAddr stream) ++ bytes.flatMap byteEvents ++ stopEvents

/-- The writes of `SETCUR col, row` (43_display_dispatch.md R126). -/
def cursorEvents (row : BitVec 3) (col : Byte) : List Event :=
  txEvents false [0xB0 ||| row.setWidth 8, 0x10 ||| col >>> 4, col &&& 0x0F]

/-- The writes of `PUTCH c` (R127). -/
def charEvents (c : Byte) : List Event :=
  txEvents true
    [Config.font (c.toNat - 32) 0, Config.font (c.toNat - 32) 1, Config.font (c.toNat - 32) 2,
      Config.font (c.toNat - 32) 3, Config.font (c.toNat - 32) 4, Config.font (c.toNat - 32) 5]

/-- The writes of one page of `CLEAR` (R128). -/
def pageEvents (page : BitVec 3) : List Event := cursorEvents page 0 ++ txEvents true (List.replicate 128 0)

/-- The writes of `CLEAR` (R128). -/
def clearEvents : List Event :=
  pageEvents 0 ++ pageEvents 1 ++ pageEvents 2 ++ pageEvents 3 ++ pageEvents 4 ++ pageEvents 5 ++ pageEvents 6 ++
    pageEvents 7

/-- The writes of a display word (43_display_dispatch.md R126 to R128). -/
def wordEvents (w : OpWord) : List Event :=
  match decodeOp w with
  | .ok (.setcur row col) => cursorEvents row col
  | .ok (.putch c) => charEvents c
  | .ok .clear => clearEvents
  | _ => []

/-- A rise of the clock. -/
def isClockRise : Event → Bool
  | .wire .scl true => true
  | _ => false

/-- A write of a display line. -/
def isWire : Event → Bool
  | .wire _ _ => true
  | _ => false

/-! ### Readings -/

/-- The next `n` answers of a channel and the environment after them (40_sensors.md R90). -/
def Env.samples (ch : Channel) : Nat → Env → List Byte × Env
  | 0, e => ([], e)
  | n + 1, e => ((e.sample ch).1 :: (Env.samples ch n (e.sample ch).2).1, (Env.samples ch n (e.sample ch).2).2)

/-- The sum of samples. -/
def sampleSum (l : List Byte) : Nat := (l.map BitVec.toNat).sum

/-- The rounded Celsius value of 100 samples: `(mv - 2637) / -13.6` with `mv = mean * KN/KD`, over the common denominator,
0 where it is negative (R92, R94). -/
def tempOf (l : List Byte) : Nat :=
  if 263700 * Config.kd < sampleSum l * Config.kn then 0
  else Config.rnd (263700 * Config.kd - sampleSum l * Config.kn) (1360 * Config.kd)

/-- The rounded millivolts of 20 samples (R93). -/
def voltOf (l : List Byte) : Nat := Config.rnd (sampleSum l * Config.kn) (20 * Config.kd)

/-- The temperature that the next reading gives. -/
def tickT (s : State) : Byte := BitVec.ofNat 8 (tempOf (s.env.samples .temp 100).1)

/-- The voltage that a control tick reads, after its temperature reading (44_phases.md R141). -/
def tickV (s : State) : BitVec 16 := BitVec.ofNat 16 (voltOf ((s.env.samples .temp 100).2.samples .volt 20).1)

/-- The environment after the readings of a control tick. -/
def tickEnv (s : State) : Env := ((s.env.samples .temp 100).2.samples .volt 20).2

/-- The events of a temperature reading (R92). -/
def tempEvents (s : State) : List Event := (s.env.samples .temp 100).1.map (Event.adcRead .temp)

/-- The events of the readings of a control tick, temperature first (44_phases.md R141). -/
def tickReadEvents (s : State) : List Event :=
  tempEvents s ++ ((s.env.samples .temp 100).2.samples .volt 20).1.map (Event.adcRead .volt)

/-- The sum that a control tick leaves in `ACC`: that of the voltage reading. -/
def tickSum (s : State) : BitVec 16 := BitVec.ofNat 16 (sampleSum ((s.env.samples .temp 100).2.samples .volt 20).1)

/-- The registers that hold a value after the readings of a control tick (44_phases.md R141, 10_state.md R40(d)). -/
def tickWritten (s : State) : Written := { s.written with t := true, v := true }

/-- The events of a render list (43_display_dispatch.md R132). -/
def renderEvents (c : RenderContext) : List Event := (Config.render c).flatMap wordEvents

/-! ### Words and traces -/

/-- The cases in which an op word is illegal (30_encoding.md R74), on the fields of R71 as numbers. -/
def wordIllegal (w : OpWord) : Prop :=
  let op := w.toNat / 4096
  let s := w.toNat / 2048 % 2
  let ra := w.toNat / 256 % 8
  let imm := w.toNat % 256
  op = 0 ∨
    (s ≠ 0 ∧ op ≠ 9) ∨
    (ra ≠ 0 ∧ op ≠ 1 ∧ op ≠ 8 ∧ op ≠ 9 ∧ op ≠ 10 ∧ op ≠ 14) ∨
    (imm ≠ 0 ∧ op ≠ 1 ∧ op ≠ 2 ∧ op ≠ 10) ∨
    (op = 10 ∧ 8 ≤ imm) ∨
    ((op = 8 ∨ op = 14) ∧ 5 ≤ ra) ∨
    ((op = 9 ∨ op = 10) ∧ 3 ≤ ra) ∨
    (op = 10 ∧ imm % 8 ≠ 3 ∧ imm % 8 ≠ 4) ∨
    (op = 1 ∧ 127 < imm) ∨
    (op = 2 ∧ (imm < 32 ∨ 126 < imm))

/-- Starting with the clock at level `scl`, the data line is written only while the clock is low
(42_display_wire.md R114, R121). -/
def dataOnlyWhileLow : Bool → List Event → Prop
  | _, [] => True
  | scl, .wire .sda _ :: evs => scl = false ∧ dataOnlyWhileLow scl evs
  | _, .wire .scl b :: evs => dataOnlyWhileLow b evs
  | scl, _ :: evs => dataOnlyWhileLow scl evs

/-- Between any two moments that follow each other and at which the clock is high, the data line keeps its level: stated on
the register values after each event, from the levels `l` (42_display_wire.md R121). -/
def dataStable : Levels → List Levels → Prop
  | _, [] => True
  | l, m :: ms => (l.scl = true → m.scl = true → m.sda = l.sda) ∧ dataStable m ms

/-- `q` is `p` after exactly `n` more events, each a write of a line. -/
def AddsWires (n : Nat) (p q : Port) : Prop :=
  ∃ evs : List Event, q.trace = evs.reverse ++ p.trace ∧ evs.length = n ∧ ∀ e ∈ evs, isWire e = true

/-- The level that the heater output has after events that start at level `h` (10_state.md R28). -/
def heaterAfter (h : Bool) : List Event → Bool
  | [] => h
  | .heaterSet b :: evs => heaterAfter b evs
  | _ :: evs => heaterAfter h evs

/-- Every persistent byte reads as before (20_memory.md R62). -/
def SameStore (s t : State) : Prop := ∀ j : Fin 5, t.env.cfg.read j = s.env.cfg.read j

/-! ### What every run keeps -/

/-- The addresses that `PC` takes while `RUN = 1` (45_modes.md R168). -/
def pcReached (pc : BitVec 5) : Bool :=
  decide (pc.toNat ≤ 0x08) || (decide (0x10 ≤ pc.toNat) && decide (pc.toNat ≤ 0x1D))

/-- A set point lies in its range (10_state.md R21). -/
def spInRange (i : Fin 5) (x : Byte) : Prop :=
  (Config.spMin i).toNat ≤ x.toNat ∧ x.toNat ≤ (Config.spMax i).toNat

/-- How many set points have been loaded: in BOOT the `LOADSP` words before `PC`, afterwards all five (45_modes.md
R169). -/
def State.loaded (s : State) : Nat := if s.run = true ∧ s.pc.toNat ≤ 6 then s.pc.toNat - 1 else 5

/-- The block as the spec describes it (10_state.md R40), with nothing put into it from outside: no patched ROM word and no
code in the framer's slot. Of R40(d) it says that the registers which the ticks of `HEAT` and `HOLD` read have been written;
that nothing else reads one that has not is a comparison of two states (`SameWritten`). -/
structure BlockInv (s : State) : Prop where
  /-- The persistent store has its canonical form (log 3). -/
  store : s.env.cfg.wf = true
  /-- The ROM is that of 30_encoding.md R81. -/
  rom : s.rom = []
  direct : s.direct = none
  /-- 45_modes.md R168. -/
  pc : s.run = true → pcReached s.pc = true
  /-- R40(a) and R40(f): the heater is on only in `HEAT` or `HOLD`. -/
  heater : s.heater = true → s.phase = .heat ∨ s.phase = .hold
  /-- The heater is on only on a supply reading at or above the floor (41_actuator.md R101). -/
  supply : s.heater = true → 2000 ≤ s.v.toNat
  /-- R40(b): every set point that has been loaded is in its range. -/
  setPoints : ∀ i : Fin 5, i.val < s.loaded → spInRange i s.sp[i]
  /-- R40(c). -/
  temperature : s.t.toNat ≤ 194
  voltage : s.v.toNat ≤ Config.rnd (255 * Config.kn) Config.kd
  /-- R40(e). -/
  link : s.port.idle = true
  /-- R40(d): the ticks of `HEAT` and `HOLD` find `TGT` written. -/
  targetWritten : s.run = true → s.entered = true → s.phase = .heat ∨ s.phase = .hold → s.written.tgt = true
  /-- R40(d): the ticks of `HOLD` find `CNT` written. -/
  countWritten : s.run = true → s.entered = true → s.phase = .hold → s.written.cnt = true
  /-- A `HOLD` whose ticks run has a tick left (10_state.md R26). -/
  count : s.run = true → s.entered = true → s.phase = .hold → s.cnt ≠ 0

/-- Two states stand at the same place and agree on every register that a rule reads there, other than through the render
context (10_state.md R40(d), R39): on what reset gives, on which registers have been written, on the set points that have
been loaded, on `FIRST` in an entered operation, on `TGT` in an entered `HEAT` or `HOLD`, on `CNT` in an entered `HOLD`, and
on the environment. They may differ in `T`, `V`, `ACC`, `NS`, `DEC`, `TR`, `SHR`, `BITC`, and in the others elsewhere. -/
structure SameWritten (s s' : State) : Prop where
  pc : s'.pc = s.pc
  run : s'.run = s.run
  entered : s'.entered = s.entered
  heater : s'.heater = s.heater
  env : s'.env = s.env
  written : s'.written = s.written
  setPoints : ∀ i : Fin 5, i.val < s.loaded → s'.sp[i] = s.sp[i]
  first : s.run = true → s.entered = true → s'.first = s.first
  target : s.entered = true → s.phase = .heat ∨ s.phase = .hold → s'.tgt = s.tgt
  count : s.entered = true → s.phase = .hold → s'.cnt = s.cnt

/-- Two states agree on those registers of the render context that have been written (R132, R40(d)). -/
structure SameContext (s s' : State) : Prop where
  t : s.written.t = true → s'.t = s.t
  v : s.written.v = true → s'.v = s.v
  tgt : s.written.tgt = true → s'.tgt = s.tgt
  cnt : s.written.cnt = true → s'.cnt = s.cnt

end Sys2Proof.Machine
end

