-- ==== Sys2Proof/Certificates/Slice0/Obligations.lean ====
section
/-! DEFINITION. The statements about the block, for the provers. Each docstring names the rules of spec/ it rests on.
In every statement these clauses are the model's own and no rule of the spec: the trace inside `port` (log 1), the queues
and the counter `draws` of `env` (log 2), `entered` (log 6), `written`, the record of which registers hold a
value (log 31), the entry of the next phase operation in the same step (log 7), the premise `pc ≠ 31` (log 15), and what a dead working register (`ACC`, `NS`, `SHR`, `BITC`) is left at
(log 20). -/

open Sys2Proof Sys2Proof.Machine

/-! ### Encoding -/

/-- 95_test_vectors.md B7: words of every family, and bytes and pulses of the link, decode to what they stand for. -/
def Obligations.SpecWordsDecode : Prop :=
  decodeOp 0x130C = .ok (.setcur 3 12) ∧ decodeOp 0x2041 = .ok (.putch 65) ∧ decodeOp 0x4000 = .ok .dinit ∧
    decodeOp 0x5000 = .ok .rdtemp ∧ decodeOp 0x7000 = .ok .decideOp ∧ decodeOp 0x9A00 = .ok (.heat true 2) ∧
    decodeOp 0xA103 = .ok (.hold 1 3) ∧ decodeOp 0x8300 = .ok (.edit 3) ∧ decodeOp 0xE400 = .ok (.loadsp 4) ∧
    decodeOp 0xF000 = .ok .drive ∧ decodeOp 0x0000 = .error .illegalOp ∧ decodeOp 0x9B00 = .error .illegalOp ∧
    decodeOp 0x3001 = .error .illegalOp ∧ decodeLink (.byte .header 0x79) = .ok (.hdr 0x3C true) ∧
    decodeLink (.byte .command 0xB3) = .ok (.cmdPage 3) ∧ decodeLink (.byte .command 0x17) = .ok (.cmdColh 7) ∧
    decodeLink (.byte .command 0x0C) = .ok (.cmdColl 12) ∧ decodeLink (.frame 0b011110001#9) = .ok (.txbyte 0x78)

/-- R72 to R77, R82: decoding the code of a well-formed instruction gives the instruction back. -/
def Obligations.DecodeEncodeAgree : Prop :=
  ∀ i : Instr, i.wellFormed = true → decode (encode i) = .ok i

/-- R72 to R77, R82: a code that decodes is the code of the instruction it decodes to, and that instruction is
well-formed. -/
def Obligations.EncodeDecodeAgree : Prop :=
  ∀ (c : Code) (i : Instr), decode c = .ok i → encode i = c ∧ i.wellFormed = true

/-- R74, R183: a word has no meaning exactly in the listed cases, and a step that fetches such a word is refused, by one of
the three names of R183. -/
def Obligations.IllegalWordsAreRefused : Prop :=
  (∀ w : OpWord, (∀ i, decodeOp w ≠ .ok i) ↔ wordIllegal w) ∧
    (∀ s : State, s.direct = none → s.run = true → wordIllegal s.fetch →
      step s = .refused .illegalOp ∨ step s = .refused .badChar ∨ step s = .refused .badColumn)

/-- R81: the four pipelines, by address; every other word of the ROM is illegal. -/
def Obligations.RomHoldsPipelines : Prop :=
  romTable.length = 32 ∧
    (romTable.take 7).map decodeOp =
      [.ok .dinit, .ok (.loadsp 0), .ok (.loadsp 1), .ok (.loadsp 2), .ok (.loadsp 3), .ok (.loadsp 4), .ok .endOp] ∧
    ((romTable.drop 7).take 2).map decodeOp = [.ok .faultw, .ok .endOp] ∧
    ((romTable.drop 0x10).take 4).map decodeOp = [.ok (.edit 0), .ok (.heat false 0), .ok .cool, .ok .endOp] ∧
    ((romTable.drop 0x14).take 10).map decodeOp =
      [.ok (.edit 1), .ok (.edit 3), .ok (.edit 2), .ok (.edit 4), .ok (.heat true 1), .ok (.hold 1 3),
        .ok (.heat true 2), .ok (.hold 2 4), .ok .cool, .ok .endOp] ∧
    (∀ a, (9 ≤ a ∧ a ≤ 15) ∨ a = 30 ∨ a = 31 → decodeOp (romWord a) = .error .illegalOp)

/-! ### Sensors -/

/-- R92, R95: `RDTEMP` runs in every state; it takes the next 100 answers of the temperature channel and nothing else, and
writes `T`, `ACC`, `NS`. -/
def Obligations.ReadTemperatureResult : Prop :=
  ∀ s : State, exec .rdtemp s = .next
    { s with
      t := BitVec.ofNat 8 (tempOf (s.env.samples .temp 100).1)
      written := { s.written with t := true }
      acc := BitVec.ofNat 16 (sampleSum (s.env.samples .temp 100).1)
      ns := 0
      env := (s.env.samples .temp 100).2
      port := { s.port with
        trace := ((s.env.samples .temp 100).1.map (Event.adcRead .temp)).reverse ++ s.port.trace } }

/-- R93, R95: `RDVOLT` runs in every state; it takes the next 20 answers of the voltage channel and nothing else, and
writes `V`, `ACC`, `NS`. -/
def Obligations.ReadVoltageResult : Prop :=
  ∀ s : State, exec .rdvolt s = .next
    { s with
      v := BitVec.ofNat 16 (voltOf (s.env.samples .volt 20).1)
      written := { s.written with v := true }
      acc := BitVec.ofNat 16 (sampleSum (s.env.samples .volt 20).1)
      ns := 0
      env := (s.env.samples .volt 20).2
      port := { s.port with
        trace := ((s.env.samples .volt 20).1.map (Event.adcRead .volt)).reverse ++ s.port.trace } }

/-- R91 to R94: with `mv = mean * KN/KD` and `c = (mv - 2637) / (-13.6)` as exact rationals, `T` is 0 where `c` is negative
and otherwise lies between the floor and the ceiling of `c`; `V` lies between the floor and the ceiling of its `mv`; for
every admissible `RND`. -/
def Obligations.ReadingsFollowTransfer : Prop :=
  (∀ s t : State, exec .rdtemp s = .next t →
    let mv : ℚ := (sampleSum (s.env.samples .temp 100).1 : ℚ) / 100 * (Config.kn / Config.kd)
    let c : ℚ := (mv - 2637) / (-13.6)
    (c < 0 → t.t.toNat = 0) ∧ (0 ≤ c → ⌊c⌋ ≤ (t.t.toNat : ℤ) ∧ (t.t.toNat : ℤ) ≤ ⌈c⌉)) ∧
  (∀ s t : State, exec .rdvolt s = .next t →
    let mv : ℚ := (sampleSum (s.env.samples .volt 20).1 : ℚ) / 20 * (Config.kn / Config.kd)
    ⌊mv⌋ ≤ (t.v.toNat : ℤ) ∧ (t.v.toNat : ℤ) ≤ ⌈mv⌉)

/-- R24, R97: `T` is at most 194, `V` at most the rounding of the full scale, and the accumulator holds the exact sum. -/
def Obligations.ReadingRanges : Prop :=
  (∀ s t : State, exec .rdtemp s = .next t →
      t.t.toNat ≤ 194 ∧ t.acc.toNat = sampleSum (s.env.samples .temp 100).1 ∧ t.acc.toNat ≤ 25500) ∧
    (∀ s t : State, exec .rdvolt s = .next t →
      t.v.toNat ≤ Config.rnd (255 * Config.kn) Config.kd ∧ t.acc.toNat = sampleSum (s.env.samples .volt 20).1 ∧
        t.acc.toNat ≤ 5100)

/-- R96: a larger sum of samples never gives a larger `T`, nor a smaller `V`. -/
def Obligations.ReadingsAreMonotone : Prop :=
  (∀ s s' t t' : State, exec .rdtemp s = .next t → exec .rdtemp s' = .next t' →
      t.acc.toNat ≤ t'.acc.toNat → t'.t.toNat ≤ t.t.toNat) ∧
    (∀ s s' t t' : State, exec .rdvolt s = .next t → exec .rdvolt s' = .next t' →
      t.acc.toNat ≤ t'.acc.toNat → t.v.toNat ≤ t'.v.toNat)

/-- R95: a reading depends on the samples it takes and on nothing else: where two states give a reading the same samples,
the readings and the sums are the same, whatever else differs, the rest of the environment too; and where the
environments are the same, they are the same afterwards. -/
def Obligations.ReadingsHaveNoFilterState : Prop :=
  ∀ s s' t t' : State,
    ((s.env.samples .temp 100).1 = (s'.env.samples .temp 100).1 → exec .rdtemp s = .next t → exec .rdtemp s' = .next t' →
      t.t = t'.t ∧ t.acc = t'.acc ∧ (s.env = s'.env → t.env = t'.env)) ∧
    ((s.env.samples .volt 20).1 = (s'.env.samples .volt 20).1 → exec .rdvolt s = .next t → exec .rdvolt s' = .next t' →
      t.v = t'.v ∧ t.acc = t'.acc ∧ (s.env = s'.env → t.env = t'.env))

/-! ### Actuator -/

/-- R100: `DECIDE`, op word `0x7000`, runs in every state, writes `DEC` only and emits nothing: the under-voltage test first,
then `T < TGT`, both strict and unsigned; the codes of `DEC` are 2, 1, 0. -/
def Obligations.DecideResult : Prop :=
  decodeOp 0x7000 = .ok .decideOp ∧ Decision.fault.code = 2 ∧ Decision.energize.code = 1 ∧ Decision.deEnergize.code = 0 ∧
    ∀ s : State, exec .decideOp s = .next
      { s with
        dec :=
          if s.v.toNat < 2000 then .fault
          else if s.t.toNat < s.tgt.toNat then .energize
          else .deEnergize }

/-- R104: `DRIVE` runs in every state, sets `HEATER` to whether `DEC` is `Energize`, and emits exactly one `HeaterSet`.
For `DEC = Fault`, which R104 says never happens, this is the rule's `else` (log 18). -/
def Obligations.DriveResult : Prop :=
  ∀ s : State, exec .drive s = .next
    { s with
      heater := decide (s.dec = .energize)
      port := { s.port with trace := .heaterSet (decide (s.dec = .energize)) :: s.port.trace } }

/-- R101: when the supply is below the floor, `DECIDE` gives `Fault` whatever `T` and `TGT` are; and a tick of `HEAT` or
`HOLD` that reads such a supply leaves the heater off and emits no `HeaterSet(1)`. -/
def Obligations.InterlockDominates : Prop :=
  (∀ s t : State, exec .decideOp s = .next t → s.v.toNat < 2000 → t.dec = .fault) ∧
    (∀ (i : Instr) (s t : State), (∃ stop ra, i = .heat stop ra) ∨ (∃ ra rb, i = .hold ra rb) → s.entered = true →
      exec i s = .next t → t.v.toNat < 2000 →
      t.dec = .fault ∧ t.heater = false ∧ ∃ evs, Emitted evs s t ∧ Event.heaterSet true ∉ evs)

/-! ### The display link -/

/-- R112, R113: from an idle link, the start condition is two writes and leaves both lines 0; with the clock low, the stop
condition is three writes and leaves the link idle; neither changes another register of the link. -/
def Obligations.StartAndStopFraming : Prop :=
  ∀ p : Port,
    (p.scl = true → p.sda = true →
      p.start = { p with
        scl := false, sda := false, trace := [.wire .sda false, .wire .scl false].reverse ++ p.trace }) ∧
    (p.scl = false →
      p.stop = { p with
        scl := true, sda := true
        trace := [.wire .sda false, .wire .scl true, .wire .sda true].reverse ++ p.trace })

/-- R114: `TXBIT(b)` runs in every state: data, clock up, clock down. A state with the clock high, which R114's precondition
leaves out, runs too (log 18). -/
def Obligations.TxbitResult : Prop :=
  ∀ (b : Bool) (s : State), exec (.txbit b) s = .next
    { s with port := { s.port with
        scl := false, sda := b
        trace := [.wire .sda b, .wire .scl true, .wire .scl false].reverse ++ s.port.trace } }

/-- R115: `TXBYTE(v)` runs in every state: `SHR` holds `v`, eight pulses with bit 7 first and bit 0 last, then the
released acknowledge slot; 27 writes, the clock low, the data released. That `BITC` is left at 0 is the model's
reading of R32 (log 20); a state with the clock high, which R115's precondition leaves out, runs too (log 18). -/
def Obligations.TxbyteResult : Prop :=
  ∀ (v : Byte) (s : State),
    exec (.txbyte v) s = .next
      { s with port :=
        { scl := false, sda := true, shr := v, bitc := 0, trace := (byteEvents v).reverse ++ s.port.trace } } ∧
    (byteEvents v).length = 27

/-- R75 to R77, R115: each byte row of the table sends its byte by `TXBYTE`, in every state: the header `addr * 2 + stream`,
the page `0xB0 + row`, the nibbles `0x10 + h` and `l`, a data byte as it is. That a byte row is an operation of its own is
the model's choice (log 13), and so is that it runs with the clock high, which R115's precondition leaves out (log 18). -/
def Obligations.WireBytesAreSent : Prop :=
  ∀ (s : State) (addr : BitVec 7) (stream : Bool) (row : BitVec 3) (high low : BitVec 4) (d : Byte) (i : Instr) (v : Byte),
    (i, v) ∈
      [(.hdr addr stream, BitVec.ofNat 8 (addr.toNat * 2 + stream.toNat)),
        (.cmdPage row, BitVec.ofNat 8 (0xB0 + row.toNat)), (.cmdColh high, BitVec.ofNat 8 (0x10 + high.toNat)),
        (.cmdColl low, BitVec.ofNat 8 low.toNat), (.data d, d)] →
    exec i s = .next
      { s with port :=
        { scl := false, sda := true, shr := v, bitc := 0, trace := (byteEvents v).reverse ++ s.port.trace } }

/-- R117, R118: a transaction emits start, header, payload in list order and stop, and leaves the link idle; a command
transaction has stream bit 0 and a data transaction stream bit 1. A link that is not idle, which R117's precondition leaves
out, is the model's choice (log 18), and so is an empty payload, which R117 does not define (log 30). -/
def Obligations.TransactionShape : Prop :=
  ∀ (stream : Bool) (bytes : List Byte) (p : Port),
    (p.tx stream bytes).trace = (txEvents stream bytes).reverse ++ p.trace ∧ (p.tx stream bytes).idle = true ∧
      p.cmdTx bytes = p.tx false bytes ∧ p.dataTx bytes = p.tx true bytes

/-- R114, R117, R121: what a transaction adds to the trace is a start condition, the bytes, and a stop condition; between
the two the data line is written only while the clock is low, in the trace and in the waveform on the pins, and keeps its
level while the clock is high, on the register values after each event; and the levels the transaction leaves are those
after its last event. A link that is not idle and an empty payload, which R117 leaves out, are the model's choice (log 18,
log 30). -/
def Obligations.DataStableWhileClockHigh : Prop :=
  ∀ (stream : Bool) (bytes : List Byte) (p : Port),
    let evs := byteEvents (headerByte Config.dispAddr stream) ++ bytes.flatMap byteEvents
    (p.tx stream bytes).trace = (startEvents ++ evs ++ stopEvents).reverse ++ p.trace ∧
      dataOnlyWhileLow p.start.levels.scl evs ∧ dataOnlyWhileLow p.start.levels.scl (waveform p.start.levels evs) ∧
      dataStable p.start.levels (levelsAlong p.start.levels evs) ∧
      (p.tx stream bytes).levels = levelsAfter p.levels (startEvents ++ evs ++ stopEvents)

/-! ### Display -/

/-- R126: `SETCUR` with a legal column sends one command transaction and changes nothing else; above 127 it is refused. -/
def Obligations.SetcurResult : Prop :=
  ∀ (row : BitVec 3) (col : Byte) (s : State),
    (col.toNat ≤ 127 →
      exec (.setcur row col) s = .next
        { s with port :=
          { scl := true, sda := true, shr := col &&& 0x0F, bitc := 0
            trace := (cursorEvents row col).reverse ++ s.port.trace } }) ∧
    (127 < col.toNat → exec (.setcur row col) s = .refused .badColumn)

/-- R127: `PUTCH` of a printable character sends one data transaction with the six bytes of its glyph and changes nothing
else; outside 32..126 it is refused. -/
def Obligations.PutchResult : Prop :=
  ∀ (c : Byte) (s : State),
    (32 ≤ c.toNat ∧ c.toNat ≤ 126 →
      exec (.putch c) s = .next
        { s with port :=
          { scl := true, sda := true, shr := Config.font (c.toNat - 32) 5, bitc := 0
            trace := (charEvents c).reverse ++ s.port.trace } }) ∧
    (c.toNat < 32 ∨ 126 < c.toNat → exec (.putch c) s = .refused .badChar)

/-- R128: `CLEAR` runs in every state and sends, for pages 0 to 7 in order, the origin of the page and 128 zero bytes; it
changes nothing else. -/
def Obligations.ClearResult : Prop :=
  ∀ s : State, exec .clear s = .next
    { s with port :=
      { scl := true, sda := true, shr := 0, bitc := 0, trace := clearEvents.reverse ++ s.port.trace } }

/-- R129, R140: `DINIT` emits one `DispInit`, leaves the link idle, completes, and changes nothing else. -/
def Obligations.DinitResult : Prop :=
  ∀ s : State, s.pc ≠ 31#5 → exec .dinit s = .next
    { s with
      port := { s.port with scl := true, sda := true, trace := .dispInit :: s.port.trace }
      pc := s.pc + 1, entered := false }

/-- R119: how many writes of a line each element of the link and each display operation adds to the trace, and that it adds
no other event; and how many rises of the clock a transaction adds. A link that does not meet a precondition of R112 to
R117 and an empty payload are the model's choice (log 18, log 30). -/
def Obligations.LinkEventCounts : Prop :=
  (∀ p : Port, AddsWires 2 p p.start ∧ AddsWires 3 p p.stop) ∧
    (∀ (stream : Bool) (bytes : List Byte) (p : Port),
      AddsWires (27 * bytes.length + 32) p (p.tx stream bytes) ∧
        (p.tx stream bytes).trace.countP isClockRise = p.trace.countP isClockRise + (9 * (bytes.length + 1) + 1)) ∧
    (∀ p : Port, AddsWires 3488 p (p.dataTx (List.replicate 128 0))) ∧
    (∀ (b : Bool) (s : State), ∃ t, exec (.txbit b) s = .next t ∧ AddsWires 3 s.port t.port) ∧
    (∀ (v : Byte) (s : State), ∃ t, exec (.txbyte v) s = .next t ∧ AddsWires 27 s.port t.port) ∧
    (∀ (row : BitVec 3) (col : Byte) (s : State), col.toNat ≤ 127 →
      ∃ t, exec (.setcur row col) s = .next t ∧ AddsWires 113 s.port t.port) ∧
    (∀ (c : Byte) (s : State), 32 ≤ c.toNat ∧ c.toNat ≤ 126 →
      ∃ t, exec (.putch c) s = .next t ∧ AddsWires 194 s.port t.port) ∧
    (∀ s : State, ∃ t, exec .clear s = .next t ∧ AddsWires 28808 s.port t.port)

/-- R125, R132: a render list of legal display words runs to its end from an idle link: it changes the port only, sends the
writes of its words in order and leaves the link idle; a list with a word that is no legal display word is refused. -/
def Obligations.RenderListRuns : Prop :=
  ∀ (ws : List OpWord) (s : State) (k : State → Result),
    ((∀ w ∈ ws, renderWordLegal w = true) → s.port.idle = true →
      ∃ q : Port, runRenderList ws s k = k { s with port := q } ∧ q.idle = true ∧
        q.trace = (ws.flatMap wordEvents).reverse ++ s.port.trace) ∧
    ((∃ w ∈ ws, renderWordLegal w = false) → ∃ r, runRenderList ws s k = .refused r)

/-! ### Sequencer operations -/

/-- R142, R140: the entry of `HEAT` loads `TGT` and sets `FIRST`, emits nothing, and changes nothing else. -/
def Obligations.HeatEntryResult : Prop :=
  ∀ (stop : Bool) (ra : BitVec 3) (i : Fin 5) (s : State), ra.toNat = i.val → i.val ≤ 2 → s.entered = false →
    exec (.heat stop ra) s = .next
      { s with tgt := s.sp[i], written := { s.written with tgt := true }, first := true, entered := true }

/-- R141, R142: a tick of `HEAT` runs in every state; with the supply at or above the floor it drives the heater by
`T < TGT`, renders, polls once, and ends the phase on Select or, with `stop`, on `T >= TGT`; otherwise it waits. The case
of a supply below the floor is UndervoltageTrapEntry. FIRST is cleared in every tick (log 16). -/
def Obligations.HeatTickResult : Prop :=
  ∀ (stop : Bool) (ra : BitVec 3) (s : State), ra.toNat ≤ 2 → s.entered = true → s.pc ≠ 31#5 →
    let hot := decide ((tickT s).toNat < s.tgt.toNat)
    let poll := (tickEnv s).buttons.1
    let done := poll.sel || (stop && decide (s.tgt.toNat ≤ (tickT s).toNat))
    ∃ t, exec (.heat stop ra) s = .next t ∧
      (2000 ≤ (tickV s).toNat →
        t = { s with
            t := tickT s, v := tickV s, written := tickWritten s, acc := tickSum s, ns := 0
            dec := if hot then .energize else .deEnergize
            heater := hot, env := (tickEnv s).buttons.2, port := t.port
            tr := if done then .phaseComplete else .continue
            first := false, entered := !done, pc := if done then s.pc + 1 else s.pc } ∧
        (s.port.idle = true → t.port.idle = true) ∧
        Emitted
          (tickReadEvents s ++ [.heaterSet hot] ++
            renderEvents ⟨.heat, s.first, some (tickT s), some (tickV s), asItStands s.written.tgt s.tgt,
              asItStands s.written.cnt s.cnt, none, s.sp⟩ ++ [.pollInputs poll] ++
            (if done then [] else [.delayTick])) s t)

/-- R143, R140: the entry of `HOLD` with a duration that is not zero loads `TGT` and `CNT`, sets `FIRST`, emits nothing, and
changes nothing else. -/
def Obligations.HoldEntryResult : Prop :=
  ∀ (ra rb : BitVec 3) (i j : Fin 5) (s : State), ra.toNat = i.val → i.val ≤ 2 → rb.toNat = j.val → 3 ≤ j.val →
    s.entered = false → s.sp[j] ≠ 0 →
    exec (.hold ra rb) s = .next
      { s with
        tgt := s.sp[i], cnt := s.sp[j], written := { s.written with tgt := true, cnt := true }, first := true
        entered := true }

/-- R143, R152: a `HOLD` of duration 0 loads `TGT` and `CNT`, emits no event at all, keeps the heater's level and advances
`PC`. That `TR` keeps its value is the model's reading (log 17). -/
def Obligations.ZeroHoldIsNoOp : Prop :=
  ∀ (ra rb : BitVec 3) (i j : Fin 5) (s : State), ra.toNat = i.val → i.val ≤ 2 → rb.toNat = j.val → 3 ≤ j.val →
    s.entered = false → s.sp[j] = 0 → s.pc ≠ 31#5 →
    ∃ t, exec (.hold ra rb) s = .next t ∧ t.port = s.port ∧ t.env = s.env ∧ t.heater = s.heater ∧ t.pc = s.pc + 1 ∧
      t.tgt = s.sp[i] ∧ t.cnt = 0 ∧ t.written = { s.written with tgt := true, cnt := true } ∧
      t.entered = false ∧ t.run = s.run ∧ t.sp = s.sp ∧ t.t = s.t ∧ t.v = s.v ∧ t.tr = s.tr ∧ t.dec = s.dec

/-- R141, R143: a tick of `HOLD` runs in every state; with the supply at or above the floor it drives the heater, renders,
polls once; Select ends the phase, and otherwise the one-second wait and the countdown follow, and zero ends it. The
temperature does not end it. The case of a supply below the floor is UndervoltageTrapEntry. FIRST is cleared in every tick
(log 16). -/
def Obligations.HoldTickResult : Prop :=
  ∀ (ra rb : BitVec 3) (s : State), ra.toNat ≤ 2 → (rb.toNat = 3 ∨ rb.toNat = 4) → s.entered = true → s.cnt ≠ 0 →
    s.pc ≠ 31#5 →
    let hot := decide ((tickT s).toNat < s.tgt.toNat)
    let poll := (tickEnv s).buttons.1
    let left := if poll.sel then s.cnt else s.cnt - 1
    let done := poll.sel || left == 0
    ∃ t, exec (.hold ra rb) s = .next t ∧
      (2000 ≤ (tickV s).toNat →
        t = { s with
            t := tickT s, v := tickV s, written := tickWritten s, acc := tickSum s, ns := 0, cnt := left
            dec := if hot then .energize else .deEnergize
            heater := hot, env := (tickEnv s).buttons.2, port := t.port
            tr := if done then .phaseComplete else .continue
            first := false, entered := !done, pc := if done then s.pc + 1 else s.pc } ∧
        (s.port.idle = true → t.port.idle = true) ∧
        Emitted
          (tickReadEvents s ++ [.heaterSet hot] ++
            renderEvents ⟨.hold, s.first, some (tickT s), some (tickV s), asItStands s.written.tgt s.tgt,
              asItStands s.written.cnt s.cnt, none, s.sp⟩ ++ [.pollInputs poll] ++
            (if poll.sel then [] else [.delayHold])) s t)

/-- R186, R141, R185: a control tick of `HEAT` or `HOLD` that reads a supply below the floor takes the trap: the readings,
then `HeaterSet(0)` and no other event; the heater off, `PC` at the fault vector with `FAULTW` entered, `RUN` as it was, and
nothing saved. It wins over Select and over the target. That `TR` is left at Fault is the model's
reading (log 28). -/
def Obligations.UndervoltageTrapEntry : Prop :=
  ∀ (i : Instr) (s : State), (∃ stop ra, i = .heat stop ra) ∨ (∃ ra rb, i = .hold ra rb) → i.wellFormed = true →
    s.entered = true → (tickV s).toNat < 2000 →
    exec i s = .next
      { s with
        t := tickT s, v := tickV s, written := tickWritten s, acc := tickSum s, ns := 0, dec := .fault, heater := false, env := tickEnv s
        tr := .fault, pc := 0x07, first := true, entered := true
        port := { s.port with trace := .heaterSet false :: ((tickReadEvents s).reverse ++ s.port.trace) } }

/-- R144, R153, R140: the entry of `COOL` writes the heater output 0 with its event, whatever it was, and changes nothing
else; a tick reads the temperature, renders, polls once, and ends on Select only; it reads no supply, decides nothing and
leaves the heater alone. FIRST is cleared in every tick (log 16). -/
def Obligations.CoolResult : Prop :=
  ∀ s : State,
    (s.entered = false → exec .cool s = .next
      { s with
        heater := false, first := true, entered := true
        port := { s.port with trace := .heaterSet false :: s.port.trace } }) ∧
    (s.entered = true → s.pc ≠ 31#5 →
      let poll := (s.env.samples .temp 100).2.buttons.1
      ∃ t, exec .cool s = .next t ∧
        t = { s with
          t := tickT s, written := { s.written with t := true }, acc := BitVec.ofNat 16 (sampleSum (s.env.samples .temp 100).1), ns := 0
          env := (s.env.samples .temp 100).2.buttons.2, port := t.port
          tr := if poll.sel then .phaseComplete else .continue
          first := false, entered := !poll.sel, pc := if poll.sel then s.pc + 1 else s.pc } ∧
        (s.port.idle = true → t.port.idle = true) ∧
        Emitted
          (tempEvents s ++
            renderEvents ⟨.cool, s.first, some (tickT s), asItStands s.written.v s.v, asItStands s.written.tgt s.tgt,
              asItStands s.written.cnt s.cnt, none, s.sp⟩ ++
            [.pollInputs poll] ++ (if poll.sel then [] else [.delayTick])) s t)

/-- R145, R140: `FAULTW` is entered with no action but `FIRST`; a tick renders and polls, takes no sample, decides nothing,
writes no output, and ends on Select only. FIRST is cleared in every tick (log 16). -/
def Obligations.FaultwResult : Prop :=
  ∀ s : State,
    (s.entered = false → exec .faultw s = .next { s with first := true, entered := true }) ∧
    (s.entered = true → s.pc ≠ 31#5 →
      let poll := s.env.buttons.1
      ∃ t, exec .faultw s = .next t ∧
        t = { s with
          env := s.env.buttons.2, port := t.port
          tr := if poll.sel then .phaseComplete else .continue
          first := false, entered := !poll.sel, pc := if poll.sel then s.pc + 1 else s.pc } ∧
        (s.port.idle = true → t.port.idle = true) ∧
        Emitted
          (renderEvents ⟨.faultw, s.first, asItStands s.written.t s.t, asItStands s.written.v s.v,
              asItStands s.written.tgt s.tgt, asItStands s.written.cnt s.cnt, none, s.sp⟩ ++ [.pollInputs poll] ++
            (if poll.sel then [] else [.delayTick])) s t)

/-- R146, R140: `EDIT` is entered with no action but `FIRST`; a tick renders the value before the poll, polls, applies the
increment and then the decrement, each with its own bound, and on Select stores the value once and completes; otherwise it
waits. FIRST is cleared in every tick (log 16). -/
def Obligations.EditResult : Prop :=
  ∀ (ra : BitVec 3) (i : Fin 5) (s : State), ra.toNat = i.val →
    (s.entered = false → exec (.edit ra) s = .next { s with first := true, entered := true }) ∧
    (s.entered = true → s.pc ≠ 31#5 →
      let poll := s.env.buttons.1
      let up : Byte := if poll.inc = true ∧ s.sp[i].toNat < (Config.spMax i).toNat then s.sp[i] + 1 else s.sp[i]
      let x : Byte := if poll.dec = true ∧ (Config.spMin i).toNat < up.toNat then up - 1 else up
      ∃ t, exec (.edit ra) s = .next t ∧
        t = { s with
          sp := s.sp.set i x, env := t.env, port := t.port
          tr := if poll.sel then .phaseComplete else .continue
          first := false, entered := !poll.sel, pc := if poll.sel then s.pc + 1 else s.pc } ∧
        t.env = { s.env.buttons.2 with cfg := t.env.cfg } ∧
        (s.port.idle = true → t.port.idle = true) ∧
        (∀ j : Fin 5, t.env.cfg.read j = if poll.sel = true ∧ j = i then x else s.env.cfg.read j) ∧
        Emitted
          (renderEvents ⟨.edit, s.first, asItStands s.written.t s.t, asItStands s.written.v s.v,
              asItStands s.written.tgt s.tgt, asItStands s.written.cnt s.cnt, some i, s.sp⟩ ++ [.pollInputs poll] ++
            (if poll.sel then [.cfgStore i.val x] else [.delayTick])) s t)

/-- R21, R146, R147: a poll of the editor keeps a set point that is in its range in its range, and after `LOADSP` the set
point is in its range, whatever byte the store held. -/
def Obligations.SetPointsStayInRange : Prop :=
  ∀ (ra : BitVec 3) (i : Fin 5) (s t : State), ra.toNat = i.val →
    (spInRange i s.sp[i] → exec (.edit ra) s = .next t → spInRange i t.sp[i]) ∧
    (exec (.loadsp ra) s = .next t → spInRange i t.sp[i])

/-- R147, R182: `LOADSP` takes the loaded byte where it lies in the closed range and the default otherwise, emits one
`CfgLoad`, completes, and changes nothing else; the store keeps its byte. -/
def Obligations.LoadspResult : Prop :=
  ∀ (ra : BitVec 3) (i : Fin 5) (s : State), ra.toNat = i.val → s.pc ≠ 31#5 →
    let b := s.env.cfg.read i
    exec (.loadsp ra) s = .next
      { s with
        sp := s.sp.set i
          (if (Config.spMin i).toNat ≤ b.toNat ∧ b.toNat ≤ (Config.spMax i).toNat then b else Config.spDef i)
        port := { s.port with trace := .cfgLoad i.val b :: s.port.trace }
        pc := s.pc + 1, entered := false }

/-- R148: `END` runs in every state, clears `RUN`, leaves `PC` as it is, emits nothing and changes no other register. That
no operation is left entered is the model's own field (log 6). -/
def Obligations.EndResult : Prop :=
  ∀ s : State, exec .endOp s = .next { s with run := false, entered := false }

/-- R74: the sequencer's operations with a register index out of range are refused. -/
def Obligations.BadRegisterIndexIsRefused : Prop :=
  ∀ (s : State) (ra rb : BitVec 3) (stop : Bool),
    (4 < ra.toNat → exec (.edit ra) s = .refused .illegalOp ∧ exec (.loadsp ra) s = .refused .illegalOp) ∧
    (2 < ra.toNat → exec (.heat stop ra) s = .refused .illegalOp) ∧
    (2 < ra.toNat ∨ (rb.toNat ≠ 3 ∧ rb.toNat ≠ 4) → exec (.hold ra rb) s = .refused .illegalOp)

/-! ### Frames and whole-machine rules -/

/-- R126 to R128, R75 to R77, R114, R115: the display operations and the elements of the link change the port and nothing
else, no persistent byte changes, and every event they emit is a write of a line. -/
def Obligations.LinkOperationsFrame : Prop :=
  ∀ (i : Instr) (s t : State) (row : BitVec 3) (col c d v : Byte) (addr : BitVec 7) (high low : BitVec 4) (b : Bool),
    i ∈ [.setcur row col, .putch c, .clear, .hdr addr b, .cmdPage row, .cmdColh high, .cmdColl low, .data d, .txbit b,
      .txbyte v] →
    exec i s = .next t →
    t = { s with port := t.port } ∧ SameStore s t ∧ ∃ evs, Emitted evs s t ∧ ∀ e ∈ evs, isWire e = true

/-- R92, R93, R100, R104: the frame of the operations of the control tick: what each does not name stays, and no
persistent byte changes. -/
def Obligations.ControlOperationsFrame : Prop :=
  ∀ s t : State,
    (exec .rdtemp s = .next t →
      t = { s with t := t.t, written := { s.written with t := true }, acc := t.acc, ns := t.ns, env := t.env, port := t.port } ∧ SameStore s t ∧
        t.port = { s.port with trace := t.port.trace }) ∧
    (exec .rdvolt s = .next t →
      t = { s with v := t.v, written := { s.written with v := true }, acc := t.acc, ns := t.ns, env := t.env, port := t.port } ∧ SameStore s t ∧
        t.port = { s.port with trace := t.port.trace }) ∧
    (exec .decideOp s = .next t → t = { s with dec := t.dec } ∧ SameStore s t) ∧
    (exec .drive s = .next t → t = { s with heater := t.heater, port := t.port } ∧ SameStore s t ∧
      t.port = { s.port with trace := t.port.trace })

/-- R142 to R145: the frame of the phases that store nothing, on every path including the trap: `HEAT` keeps `CNT`; none of
them writes a set point, `RUN`, the ROM or a persistent byte. -/
def Obligations.HeatingPhasesFrame : Prop :=
  ∀ (s t : State) (stop : Bool) (ra rb : BitVec 3),
    (exec (.heat stop ra) s = .next t →
      t = { s with
        t := t.t, v := t.v, written := t.written, acc := t.acc, ns := t.ns, tgt := t.tgt, dec := t.dec, heater := t.heater, pc := t.pc
        tr := t.tr, first := t.first, entered := t.entered, port := t.port, env := t.env } ∧ SameStore s t) ∧
    (exec (.hold ra rb) s = .next t →
      t = { s with
        t := t.t, v := t.v, written := t.written, acc := t.acc, ns := t.ns, tgt := t.tgt, cnt := t.cnt, dec := t.dec, heater := t.heater
        pc := t.pc, tr := t.tr, first := t.first, entered := t.entered, port := t.port, env := t.env } ∧
        SameStore s t) ∧
    (exec .cool s = .next t →
      t = { s with
        t := t.t, written := t.written, acc := t.acc, ns := t.ns, heater := t.heater, pc := t.pc, tr := t.tr, first := t.first
        entered := t.entered, port := t.port, env := t.env } ∧ SameStore s t) ∧
    (exec .faultw s = .next t →
      t = { s with
        pc := t.pc, tr := t.tr, first := t.first, entered := t.entered, port := t.port, env := t.env } ∧
        SameStore s t)

/-- R146, R147, R148, R129: the frame of the sequencer's other operations; `EDIT` is the only one that changes a persistent
byte, and only that of its own slot. -/
def Obligations.SetPointOperationsFrame : Prop :=
  ∀ (s t : State) (ra : BitVec 3) (i : Fin 5), ra.toNat = i.val →
    (exec (.edit ra) s = .next t →
      t = { s with
        sp := t.sp, pc := t.pc, tr := t.tr, first := t.first, entered := t.entered, port := t.port, env := t.env } ∧
        ∀ j : Fin 5, j ≠ i → t.sp[j] = s.sp[j] ∧ t.env.cfg.read j = s.env.cfg.read j) ∧
    (exec (.loadsp ra) s = .next t →
      t = { s with sp := t.sp, pc := t.pc, entered := t.entered, port := t.port } ∧ SameStore s t ∧
        ∀ j : Fin 5, j ≠ i → t.sp[j] = s.sp[j]) ∧
    (exec .endOp s = .next t → t = { s with run := t.run, entered := t.entered } ∧ SameStore s t) ∧
    (exec .dinit s = .next t → t = { s with pc := t.pc, entered := t.entered, port := t.port } ∧ SameStore s t)

/-- R21, R154: no operation but `EDIT` and `LOADSP` writes a set point. -/
def Obligations.OnlyEditAndLoadWriteSetPoints : Prop :=
  ∀ (i : Instr) (s t : State), (∀ ra, i ≠ .edit ra) → (∀ ra, i ≠ .loadsp ra) → exec i s = .next t → t.sp = s.sp

/-- R28, R105: whichever operation runs, the heater output after it is the level of the last `HeaterSet` it emitted, and
the output before it where it emitted none; only `DRIVE`, `HEAT`, `HOLD` and `COOL` emit one. -/
def Obligations.HeaterFollowsItsEvents : Prop :=
  ∀ (i : Instr) (s t : State), exec i s = .next t →
    ∃ evs, Emitted evs s t ∧ t.heater = heaterAfter s.heater evs ∧
      ((∃ b, Event.heaterSet b ∈ evs) →
        i = .drive ∨ i = .cool ∨ (∃ stop ra, i = .heat stop ra) ∨ (∃ ra rb, i = .hold ra rb))

/-- R53, R65: no operation and no step writes the sequencer ROM. -/
def Obligations.RomIsNeverWritten : Prop :=
  (∀ (i : Instr) (s t : State), exec i s = .next t → t.rom = s.rom) ∧
    (∀ s t : State, step s = .next t → t.rom = s.rom)

/-- R62, R209: a load after a store to the same slot returns the stored byte, also across a reset, and a store changes no
other slot. -/
def Obligations.StoreThenLoadReturnsValue : Prop :=
  ∀ (i j : Fin 5) (x : Byte) (s : State),
    ((s.cfgStore i x).cfgLoad i).1 = x ∧ ((s.cfgStore i x).applyReset.cfgLoad i).1 = x ∧
      (j ≠ i → ((s.cfgStore i x).cfgLoad j).1 = (s.cfgLoad j).1)

/-- R62: every operation keeps the canonical form of the persistent store (log 3). -/
def Obligations.OperationsKeepStoreForm : Prop :=
  ∀ (i : Instr) (s t : State), s.env.cfg.wf = true → exec i s = .next t → t.env.cfg.wf = true

/-! ### The machine -/

/-- R140, R168: where a pipeline runs and the word at `PC` decodes to `i`, a step is `exec i` and what follows it: an
operation that is not the sequencer's own completes (log 14), and a phase operation at the new `PC` that has not been
entered is entered in the same step (log 7). -/
def Obligations.StepRunsDecodedOperation : Prop :=
  ∀ (s : State) (i : Instr), s.direct = none → s.run = true → decodeOp s.fetch = .ok i →
    (∀ f, exec i s = .fault f → step s = .fault f) ∧ (∀ r, exec i s = .refused r → step s = .refused r) ∧
    (∀ t, exec i s = .next t → isSequencerOp i = false → t.pc ≠ 31#5 →
      step s = enterFetched 32 { t with pc := t.pc + 1, entered := false }) ∧
    (∀ t, exec i s = .next t → isSequencerOp i = true → step s = enterFetched 32 t) ∧
    (∀ (n : Nat) (t : State), (t.run = false ∨ t.entered = true ∨ ∀ j, decodeOp t.fetch = .ok j → isPhaseOp j = false) →
      enterFetched n t = .next t) ∧
    (∀ (n : Nat) (t : State) (j : Instr), t.run = true → t.entered = false → decodeOp t.fetch = .ok j →
      isPhaseOp j = true → enterFetched (n + 1) t = andThen (exec j t) (enterFetched n))

/-- R165: an Idle tick polls the mode once; without a request it waits, with one it goes to the entry of the pipeline, whose
first operation, `EDIT`, is entered (log 7). It takes no sample, writes no output and sends nothing to the display. -/
def Obligations.IdleTickResult : Prop :=
  ∀ s : State, s.direct = none → s.run = false → s.rom = [] →
    (s.env.mode.1 = .none →
      step s = .next { s with
        env := s.env.mode.2
        port := { s.port with trace := .delayTick :: .pollMode .none :: s.port.trace } }) ∧
    (s.env.mode.1 = .normal →
      step s = .next { s with
        env := s.env.mode.2, pc := 0x10, run := true, first := true, entered := true
        port := { s.port with trace := .pollMode .normal :: s.port.trace } }) ∧
    (s.env.mode.1 = .curve →
      step s = .next { s with
        env := s.env.mode.2, pc := 0x14, run := true, first := true, entered := true
        port := { s.port with trace := .pollMode .curve :: s.port.trace } })

/-- The model's own entry for a word from outside: a placed op word is what the next step fetches and runs from its entry
(log 24), and a code in the framer's slot is what the next step runs (log 5). -/
def Obligations.PlacedCodeIsRun : Prop :=
  (∀ (s : State) (w : Nat) (i : Instr), s.rom.wf = true → decodeTableWord 16 w = some i →
    step (s.withFetchWord 16 w) = andThen (exec i (s.withFetchWord 16 w)) (afterOp i) ∧
      (s.withFetchWord 16 w).entered = false ∧ (s.withFetchWord 16 w).pc = s.pc ∧ (s.withFetchWord 16 w).run = true) ∧
    (∀ (s : State) (c : LinkCode) (i : Instr), s.direct = some c → decodeLink c = .ok i →
      step s = exec i { s with direct := none })

/-- R39, R205, R206, R209: reset gives `HEATER = 0`, `PC = 0`, `RUN = 1`, idle lines and phase Idle, in the first state and
from any state; the registers of the render context hold no value (log 31); what is outside the block stays, the persistent bytes among it, and no event is emitted (log 25).
The equality with `State.reset` also fixes the registers to which R39 gives no value: those values are the model's choice
(log 8). -/
def Obligations.ResetLeavesGivenValues : Prop :=
  (State.reset.heater = false ∧ State.reset.pc = 0 ∧ State.reset.run = true ∧ State.reset.port.scl = true ∧
    State.reset.port.sda = true ∧ State.reset.phase = .idle ∧ State.reset.port.trace = [] ∧
    State.reset.written = Written.none) ∧
  ∀ s : State,
    s.applyReset = { State.reset with
      port := { State.reset.port with trace := s.port.trace }, rom := s.rom, env := s.env } ∧
    SameStore s s.applyReset

/-- R40: the state after reset meets the invariant of the block. The values of the registers to which the spec gives none
are the model's choice (log 8). -/
def Obligations.ResetMeetsBlockInv : Prop := BlockInv State.reset

/-- R40, R168, R97, R101: every step keeps the invariant of the block: the heater is on only in `HEAT` and `HOLD` and only on
a supply reading of at least 2000 mV, `PC` stays on the pipelines, loaded set points stay in range, the readings stay in
range, the ticks of `HEAT` and `HOLD` find `TGT` and `CNT` written, the link is idle between steps, the persistent store
keeps its form. -/
def Obligations.StepKeepsBlockInv : Prop := ∀ s t : State, BlockInv s → step s = .next t → BlockInv t

/-- R171, R168: a run never ends: from every state that meets the invariant a step answers a next state, so no illegal word
is fetched and no operation completes past the ROM. -/
def Obligations.RunNeverEnds : Prop := ∀ s : State, BlockInv s → ∃ t, step s = .next t

/-- R169, R206, R207: from the reset vector, whatever the environment answers, seven steps run BOOT: `DispInit`, then
`CfgLoad(0)` to `CfgLoad(4)` in slot order and no other event; the block is in Idle with the heater off and every set point
in its range. -/
def Obligations.BootEndsInIdle : Prop :=
  ∀ s : State, BlockInv s → s.run = true → s.pc = 0 →
    ∃ t, core.run 7 s = .next t ∧ t.run = false ∧ t.pc = 0x06 ∧ t.heater = false ∧ (∀ i : Fin 5, spInRange i t.sp[i]) ∧
      SameStore s t ∧
      Emitted
        [.dispInit, .cfgLoad 0 (s.env.cfg.read 0), .cfgLoad 1 (s.env.cfg.read 1), .cfgLoad 2 (s.env.cfg.read 2),
          .cfgLoad 3 (s.env.cfg.read 3), .cfgLoad 4 (s.env.cfg.read 4)] s t

/-- R187, R188, R40(f): while the fault wait runs, a step takes no sample and emits no `HeaterSet`, the heater stays off, and
the phase is left only by a poll in which Select is true. -/
def Obligations.FaultIsLatched : Prop :=
  ∀ s t : State, BlockInv s → s.phase = .fault → step s = .next t →
    t.heater = false ∧ (t.phase ≠ .fault → s.env.buttons.1.sel = true ∧ t.phase = .idle) ∧
      ∃ evs, Emitted evs s t ∧ (∀ b, Event.heaterSet b ∉ evs) ∧ ∀ ch x, Event.adcRead ch x ∉ evs

/-- R40(a), R101, R206: a step of the block emits `HeaterSet(1)` only in a tick of `HEAT` or `HOLD`, and only on a supply
reading of at least 2000 mV. -/
def Obligations.HeatOnlyOnGoodSupply : Prop :=
  ∀ s t : State, BlockInv s → step s = .next t →
    ∃ evs, Emitted evs s t ∧
      (Event.heaterSet true ∈ evs → (s.phase = .heat ∨ s.phase = .hold) ∧ 2000 ≤ t.v.toNat)

/-- R149: Select at the poll of a `HEAT`, `HOLD` or `COOL` tick that is not cut short by a fault ends the phase, whatever its
own end condition, and the pipeline goes on at the next operation. -/
def Obligations.SelectEndsPhase : Prop :=
  ∀ (i : Instr) (s t : State), s.entered = true → exec i s = .next t →
    (((∃ stop ra, i = .heat stop ra) ∨ (∃ ra rb, i = .hold ra rb)) → 2000 ≤ (tickV s).toNat →
      (tickEnv s).buttons.1.sel = true → t.tr = .phaseComplete ∧ t.pc = s.pc + 1 ∧ t.run = s.run) ∧
    (i = .cool → (s.env.samples .temp 100).2.buttons.1.sel = true →
      t.tr = .phaseComplete ∧ t.pc = s.pc + 1 ∧ t.run = s.run)

/-- R40(d), R39, R132, D40: no rule reads a register that no rule has written: two states of the block that agree on the
written registers a rule reads where the sequencer stands (SameWritten) step to two states that agree on them, with the same
events but for the writes of the display lines; and where they also agree on the written ones of `T`, `V`, `TGT` and `CNT`,
which the render context takes (SameContext), all the events are the same and the agreement stays. That a register without
a value is absent from the context is the model's reading of R132 (log 31). -/
def Obligations.UnwrittenRegistersAreNotRead : Prop :=
  ∀ s s' t t' : State, BlockInv s → BlockInv s' → SameWritten s s' → step s = .next t → step s' = .next t' →
    SameWritten t t' ∧ (SameContext s s' → SameContext t t') ∧
      ∃ evs evs', Emitted evs s t ∧ Emitted evs' s' t' ∧
        evs.filter (fun e => !isWire e) = evs'.filter (fun e => !isWire e) ∧ (SameContext s s' → evs' = evs)
end

