-- ==== Sys2Proof/Laws/Decode.lean ====
section
/-! SUPPORT. The fields of a built op word, and the kinds of code (30_encoding.md R71). -/

namespace Sys2Proof

@[simp] theorem opField_mkWord (op : BitVec 4) (s : Bool) (ra : BitVec 3) (imm : Byte) :
    opField (mkWord op s ra imm) = op := by
  unfold opField mkWord
  ext i hi
  simp only [BitVec.getElem_extractLsb', BitVec.getLsbD_append]
  have h1 : ¬ 12 + i < 8 := by omega
  have h2 : ¬ 12 + i - 8 < 3 := by omega
  have h3 : ¬ 12 + i - 8 - 3 < 1 := by omega
  simp [h1, h2, h3]
  have h4 : 12 + i - 8 - 3 - 1 = i := by omega
  rw [h4, BitVec.getLsbD_eq_getElem hi]

@[simp] theorem sField_mkWord (op : BitVec 4) (s : Bool) (ra : BitVec 3) (imm : Byte) :
    sField (mkWord op s ra imm) = s := by
  unfold sField mkWord
  rw [BitVec.getLsbD_append, BitVec.getLsbD_append, BitVec.getLsbD_append]
  simp

@[simp] theorem raField_mkWord (op : BitVec 4) (s : Bool) (ra : BitVec 3) (imm : Byte) :
    raField (mkWord op s ra imm) = ra := by
  unfold raField mkWord
  ext i hi
  simp only [BitVec.getElem_extractLsb', BitVec.getLsbD_append]
  have h1 : ¬ 8 + i < 8 := by omega
  have h2 : 8 + i - 8 < 3 := by omega
  have h3 : 8 + i - 8 = i := by omega
  simp [h1, h3, BitVec.getLsbD_eq_getElem hi]
  intro h; omega

@[simp] theorem immField_mkWord (op : BitVec 4) (s : Bool) (ra : BitVec 3) (imm : Byte) :
    immField (mkWord op s ra imm) = imm := by
  unfold immField mkWord
  ext i hi
  simp only [BitVec.getElem_extractLsb', BitVec.getLsbD_append]
  simp [BitVec.getLsbD_eq_getElem hi]
  intro h; omega

/-- A word is built from its own fields. -/
theorem mkWord_fields (w : OpWord) : mkWord (opField w) (sField w) (raField w) (immField w) = w := by
  unfold mkWord opField sField raField immField
  apply BitVec.eq_of_getLsbD_eq
  intro i hi
  simp only [BitVec.getLsbD_append, BitVec.getLsbD_extractLsb', BitVec.getLsbD_ofBool]
  by_cases h1 : i < 8
  · simp [h1]
  · by_cases h2 : i - 8 < 3
    · have h3 : 8 + (i - 8) = i := by omega
      simp [h1, h2, h3]
    · by_cases h3 : i - 8 - 3 < 1
      · have h4 : i = 11 := by omega
        subst h4; simp
      · have h4 : 12 + (i - 8 - 3 - 1) = i := by omega
        have h5 : i - 8 - 3 - 1 < 4 := by omega
        simp [h1, h2, h3, h4, h5]

/-- Every instruction has exactly one of the two kinds of code. -/
theorem Laws.encode_total (i : Instr) :
    (∃ w, encodeOp i = some w ∧ encodeLink i = none ∧ encode i = .op w) ∨
      (∃ c, encodeOp i = none ∧ encodeLink i = some c ∧ encode i = .link c) := by
  cases i <;> simp [encodeOp, encodeLink, encode]

/-- `decodeOp` accepts an operation exactly when the fields spell it, the unused fields are zero and the operands are
legal (R74). -/
theorem decodeOp_eq_ok (w : OpWord) (i : Instr) :
    decodeOp w = .ok i ↔
      fieldsInstr (opField w) (sField w) (raField w) (immField w) = some i ∧
        unusedFieldsZero (opField w) (sField w) (raField w) (immField w) = true ∧ i.wellFormed = true := by
  unfold decodeOp Instr.wellFormed
  cases h : fieldsInstr (opField w) (sField w) (raField w) (immField w) with
  | none => simp
  | some j =>
    by_cases hu : unusedFieldsZero (opField w) (sField w) (raField w) (immField w) = true
    · simp only [hu, if_true, Option.some.injEq, true_and]
      cases hd : j.defect with
      | none =>
        constructor
        · intro he; cases he; exact ⟨rfl, by simp [hd]⟩
        · rintro ⟨rfl, -⟩; rfl
      | some d =>
        constructor
        · intro he; cases he
        · rintro ⟨rfl, h2⟩; simp [hd] at h2
    · simp [hu]

/-- What the decoder accepts is well-formed. -/
theorem decodeOp_wellFormed (w : OpWord) (i : Instr) (h : decodeOp w = .ok i) : i.wellFormed = true :=
  ((decodeOp_eq_ok w i).1 h).2.2

end Sys2Proof
end

