-- ==== Sys2Proof/Laws/State.lean ====
section
/-! SUPPORT. One lemma for each field and each update of the state, so that no later proof unfolds an update. -/

namespace Sys2Proof.Machine

/-! ### The port -/

@[simp] theorem Port.emit_scl (e : Event) (p : Port) : (p.emit e).scl = p.scl := rfl
@[simp] theorem Port.emit_sda (e : Event) (p : Port) : (p.emit e).sda = p.sda := rfl
@[simp] theorem Port.emit_shr (e : Event) (p : Port) : (p.emit e).shr = p.shr := rfl
@[simp] theorem Port.emit_bitc (e : Event) (p : Port) : (p.emit e).bitc = p.bitc := rfl
@[simp] theorem Port.emit_trace (e : Event) (p : Port) : (p.emit e).trace = e :: p.trace := rfl

@[simp] theorem Port.wire_scl_scl (b : Bool) (p : Port) : (p.wire .scl b).scl = b := rfl
@[simp] theorem Port.wire_scl_sda (b : Bool) (p : Port) : (p.wire .scl b).sda = p.sda := rfl
@[simp] theorem Port.wire_scl_shr (b : Bool) (p : Port) : (p.wire .scl b).shr = p.shr := rfl
@[simp] theorem Port.wire_scl_bitc (b : Bool) (p : Port) : (p.wire .scl b).bitc = p.bitc := rfl
@[simp] theorem Port.wire_scl_trace (b : Bool) (p : Port) : (p.wire .scl b).trace = .wire .scl b :: p.trace := rfl

@[simp] theorem Port.wire_sda_scl (b : Bool) (p : Port) : (p.wire .sda b).scl = p.scl := rfl
@[simp] theorem Port.wire_sda_sda (b : Bool) (p : Port) : (p.wire .sda b).sda = b := rfl
@[simp] theorem Port.wire_sda_shr (b : Bool) (p : Port) : (p.wire .sda b).shr = p.shr := rfl
@[simp] theorem Port.wire_sda_bitc (b : Bool) (p : Port) : (p.wire .sda b).bitc = p.bitc := rfl
@[simp] theorem Port.wire_sda_trace (b : Bool) (p : Port) : (p.wire .sda b).trace = .wire .sda b :: p.trace := rfl

/-! ### `onPort` -/

@[simp] theorem State.onPort_sp (f : Port → Port) (s : State) : (s.onPort f).sp = s.sp := rfl
@[simp] theorem State.onPort_t (f : Port → Port) (s : State) : (s.onPort f).t = s.t := rfl
@[simp] theorem State.onPort_v (f : Port → Port) (s : State) : (s.onPort f).v = s.v := rfl
@[simp] theorem State.onPort_acc (f : Port → Port) (s : State) : (s.onPort f).acc = s.acc := rfl
@[simp] theorem State.onPort_ns (f : Port → Port) (s : State) : (s.onPort f).ns = s.ns := rfl
@[simp] theorem State.onPort_tgt (f : Port → Port) (s : State) : (s.onPort f).tgt = s.tgt := rfl
@[simp] theorem State.onPort_cnt (f : Port → Port) (s : State) : (s.onPort f).cnt = s.cnt := rfl
@[simp] theorem State.onPort_dec (f : Port → Port) (s : State) : (s.onPort f).dec = s.dec := rfl
@[simp] theorem State.onPort_heater (f : Port → Port) (s : State) : (s.onPort f).heater = s.heater := rfl
@[simp] theorem State.onPort_pc (f : Port → Port) (s : State) : (s.onPort f).pc = s.pc := rfl
@[simp] theorem State.onPort_run (f : Port → Port) (s : State) : (s.onPort f).run = s.run := rfl
@[simp] theorem State.onPort_tr (f : Port → Port) (s : State) : (s.onPort f).tr = s.tr := rfl
@[simp] theorem State.onPort_first (f : Port → Port) (s : State) : (s.onPort f).first = s.first := rfl
@[simp] theorem State.onPort_entered (f : Port → Port) (s : State) : (s.onPort f).entered = s.entered := rfl
@[simp] theorem State.onPort_written (f : Port → Port) (s : State) : (s.onPort f).written = s.written := rfl
@[simp] theorem State.onPort_port (f : Port → Port) (s : State) : (s.onPort f).port = f s.port := rfl
@[simp] theorem State.onPort_rom (f : Port → Port) (s : State) : (s.onPort f).rom = s.rom := rfl
@[simp] theorem State.onPort_direct (f : Port → Port) (s : State) : (s.onPort f).direct = s.direct := rfl
@[simp] theorem State.onPort_env (f : Port → Port) (s : State) : (s.onPort f).env = s.env := rfl

/-! ### `emit` -/

@[simp] theorem State.emit_sp (e : Event) (s : State) : (s.emit e).sp = s.sp := rfl
@[simp] theorem State.emit_t (e : Event) (s : State) : (s.emit e).t = s.t := rfl
@[simp] theorem State.emit_v (e : Event) (s : State) : (s.emit e).v = s.v := rfl
@[simp] theorem State.emit_acc (e : Event) (s : State) : (s.emit e).acc = s.acc := rfl
@[simp] theorem State.emit_ns (e : Event) (s : State) : (s.emit e).ns = s.ns := rfl
@[simp] theorem State.emit_tgt (e : Event) (s : State) : (s.emit e).tgt = s.tgt := rfl
@[simp] theorem State.emit_cnt (e : Event) (s : State) : (s.emit e).cnt = s.cnt := rfl
@[simp] theorem State.emit_dec (e : Event) (s : State) : (s.emit e).dec = s.dec := rfl
@[simp] theorem State.emit_heater (e : Event) (s : State) : (s.emit e).heater = s.heater := rfl
@[simp] theorem State.emit_pc (e : Event) (s : State) : (s.emit e).pc = s.pc := rfl
@[simp] theorem State.emit_run (e : Event) (s : State) : (s.emit e).run = s.run := rfl
@[simp] theorem State.emit_tr (e : Event) (s : State) : (s.emit e).tr = s.tr := rfl
@[simp] theorem State.emit_first (e : Event) (s : State) : (s.emit e).first = s.first := rfl
@[simp] theorem State.emit_entered (e : Event) (s : State) : (s.emit e).entered = s.entered := rfl
@[simp] theorem State.emit_written (e : Event) (s : State) : (s.emit e).written = s.written := rfl
@[simp] theorem State.emit_port (e : Event) (s : State) : (s.emit e).port = s.port.emit e := rfl
@[simp] theorem State.emit_rom (e : Event) (s : State) : (s.emit e).rom = s.rom := rfl
@[simp] theorem State.emit_direct (e : Event) (s : State) : (s.emit e).direct = s.direct := rfl
@[simp] theorem State.emit_env (e : Event) (s : State) : (s.emit e).env = s.env := rfl

/-! ### `setHeater` -/

@[simp] theorem State.setHeater_sp (b : Bool) (s : State) : (s.setHeater b).sp = s.sp := rfl
@[simp] theorem State.setHeater_t (b : Bool) (s : State) : (s.setHeater b).t = s.t := rfl
@[simp] theorem State.setHeater_v (b : Bool) (s : State) : (s.setHeater b).v = s.v := rfl
@[simp] theorem State.setHeater_acc (b : Bool) (s : State) : (s.setHeater b).acc = s.acc := rfl
@[simp] theorem State.setHeater_ns (b : Bool) (s : State) : (s.setHeater b).ns = s.ns := rfl
@[simp] theorem State.setHeater_tgt (b : Bool) (s : State) : (s.setHeater b).tgt = s.tgt := rfl
@[simp] theorem State.setHeater_cnt (b : Bool) (s : State) : (s.setHeater b).cnt = s.cnt := rfl
@[simp] theorem State.setHeater_dec (b : Bool) (s : State) : (s.setHeater b).dec = s.dec := rfl
@[simp] theorem State.setHeater_heater (b : Bool) (s : State) : (s.setHeater b).heater = b := rfl
@[simp] theorem State.setHeater_pc (b : Bool) (s : State) : (s.setHeater b).pc = s.pc := rfl
@[simp] theorem State.setHeater_run (b : Bool) (s : State) : (s.setHeater b).run = s.run := rfl
@[simp] theorem State.setHeater_tr (b : Bool) (s : State) : (s.setHeater b).tr = s.tr := rfl
@[simp] theorem State.setHeater_first (b : Bool) (s : State) : (s.setHeater b).first = s.first := rfl
@[simp] theorem State.setHeater_entered (b : Bool) (s : State) : (s.setHeater b).entered = s.entered := rfl
@[simp] theorem State.setHeater_written (b : Bool) (s : State) : (s.setHeater b).written = s.written := rfl
@[simp] theorem State.setHeater_port (b : Bool) (s : State) : (s.setHeater b).port = s.port.emit (.heaterSet b) := rfl
@[simp] theorem State.setHeater_rom (b : Bool) (s : State) : (s.setHeater b).rom = s.rom := rfl
@[simp] theorem State.setHeater_direct (b : Bool) (s : State) : (s.setHeater b).direct = s.direct := rfl
@[simp] theorem State.setHeater_env (b : Bool) (s : State) : (s.setHeater b).env = s.env := rfl

/-! ### `setSp` -/

@[simp] theorem State.setSp_sp (i : Fin 5) (x : Byte) (s : State) : (s.setSp i x).sp = s.sp.set i x := rfl
@[simp] theorem State.setSp_t (i : Fin 5) (x : Byte) (s : State) : (s.setSp i x).t = s.t := rfl
@[simp] theorem State.setSp_v (i : Fin 5) (x : Byte) (s : State) : (s.setSp i x).v = s.v := rfl
@[simp] theorem State.setSp_acc (i : Fin 5) (x : Byte) (s : State) : (s.setSp i x).acc = s.acc := rfl
@[simp] theorem State.setSp_ns (i : Fin 5) (x : Byte) (s : State) : (s.setSp i x).ns = s.ns := rfl
@[simp] theorem State.setSp_tgt (i : Fin 5) (x : Byte) (s : State) : (s.setSp i x).tgt = s.tgt := rfl
@[simp] theorem State.setSp_cnt (i : Fin 5) (x : Byte) (s : State) : (s.setSp i x).cnt = s.cnt := rfl
@[simp] theorem State.setSp_dec (i : Fin 5) (x : Byte) (s : State) : (s.setSp i x).dec = s.dec := rfl
@[simp] theorem State.setSp_heater (i : Fin 5) (x : Byte) (s : State) : (s.setSp i x).heater = s.heater := rfl
@[simp] theorem State.setSp_pc (i : Fin 5) (x : Byte) (s : State) : (s.setSp i x).pc = s.pc := rfl
@[simp] theorem State.setSp_run (i : Fin 5) (x : Byte) (s : State) : (s.setSp i x).run = s.run := rfl
@[simp] theorem State.setSp_tr (i : Fin 5) (x : Byte) (s : State) : (s.setSp i x).tr = s.tr := rfl
@[simp] theorem State.setSp_first (i : Fin 5) (x : Byte) (s : State) : (s.setSp i x).first = s.first := rfl
@[simp] theorem State.setSp_entered (i : Fin 5) (x : Byte) (s : State) : (s.setSp i x).entered = s.entered := rfl
@[simp] theorem State.setSp_written (i : Fin 5) (x : Byte) (s : State) : (s.setSp i x).written = s.written := rfl
@[simp] theorem State.setSp_port (i : Fin 5) (x : Byte) (s : State) : (s.setSp i x).port = s.port := rfl
@[simp] theorem State.setSp_rom (i : Fin 5) (x : Byte) (s : State) : (s.setSp i x).rom = s.rom := rfl
@[simp] theorem State.setSp_direct (i : Fin 5) (x : Byte) (s : State) : (s.setSp i x).direct = s.direct := rfl
@[simp] theorem State.setSp_env (i : Fin 5) (x : Byte) (s : State) : (s.setSp i x).env = s.env := rfl

/-! ### `cfgLoad` -/

@[simp] theorem State.cfgLoad_sp (i : Fin 5) (s : State) : ((s.cfgLoad i).2).sp = s.sp := rfl
@[simp] theorem State.cfgLoad_t (i : Fin 5) (s : State) : ((s.cfgLoad i).2).t = s.t := rfl
@[simp] theorem State.cfgLoad_v (i : Fin 5) (s : State) : ((s.cfgLoad i).2).v = s.v := rfl
@[simp] theorem State.cfgLoad_acc (i : Fin 5) (s : State) : ((s.cfgLoad i).2).acc = s.acc := rfl
@[simp] theorem State.cfgLoad_ns (i : Fin 5) (s : State) : ((s.cfgLoad i).2).ns = s.ns := rfl
@[simp] theorem State.cfgLoad_tgt (i : Fin 5) (s : State) : ((s.cfgLoad i).2).tgt = s.tgt := rfl
@[simp] theorem State.cfgLoad_cnt (i : Fin 5) (s : State) : ((s.cfgLoad i).2).cnt = s.cnt := rfl
@[simp] theorem State.cfgLoad_dec (i : Fin 5) (s : State) : ((s.cfgLoad i).2).dec = s.dec := rfl
@[simp] theorem State.cfgLoad_heater (i : Fin 5) (s : State) : ((s.cfgLoad i).2).heater = s.heater := rfl
@[simp] theorem State.cfgLoad_pc (i : Fin 5) (s : State) : ((s.cfgLoad i).2).pc = s.pc := rfl
@[simp] theorem State.cfgLoad_run (i : Fin 5) (s : State) : ((s.cfgLoad i).2).run = s.run := rfl
@[simp] theorem State.cfgLoad_tr (i : Fin 5) (s : State) : ((s.cfgLoad i).2).tr = s.tr := rfl
@[simp] theorem State.cfgLoad_first (i : Fin 5) (s : State) : ((s.cfgLoad i).2).first = s.first := rfl
@[simp] theorem State.cfgLoad_entered (i : Fin 5) (s : State) : ((s.cfgLoad i).2).entered = s.entered := rfl
@[simp] theorem State.cfgLoad_written (i : Fin 5) (s : State) : ((s.cfgLoad i).2).written = s.written := rfl
@[simp] theorem State.cfgLoad_port (i : Fin 5) (s : State) : ((s.cfgLoad i).2).port = s.port.emit (.cfgLoad i.val (s.env.cfg.read i)) := rfl
@[simp] theorem State.cfgLoad_rom (i : Fin 5) (s : State) : ((s.cfgLoad i).2).rom = s.rom := rfl
@[simp] theorem State.cfgLoad_direct (i : Fin 5) (s : State) : ((s.cfgLoad i).2).direct = s.direct := rfl
@[simp] theorem State.cfgLoad_env (i : Fin 5) (s : State) : ((s.cfgLoad i).2).env = s.env := rfl

/-! ### `cfgStore` -/

@[simp] theorem State.cfgStore_sp (i : Fin 5) (x : Byte) (s : State) : (s.cfgStore i x).sp = s.sp := rfl
@[simp] theorem State.cfgStore_t (i : Fin 5) (x : Byte) (s : State) : (s.cfgStore i x).t = s.t := rfl
@[simp] theorem State.cfgStore_v (i : Fin 5) (x : Byte) (s : State) : (s.cfgStore i x).v = s.v := rfl
@[simp] theorem State.cfgStore_acc (i : Fin 5) (x : Byte) (s : State) : (s.cfgStore i x).acc = s.acc := rfl
@[simp] theorem State.cfgStore_ns (i : Fin 5) (x : Byte) (s : State) : (s.cfgStore i x).ns = s.ns := rfl
@[simp] theorem State.cfgStore_tgt (i : Fin 5) (x : Byte) (s : State) : (s.cfgStore i x).tgt = s.tgt := rfl
@[simp] theorem State.cfgStore_cnt (i : Fin 5) (x : Byte) (s : State) : (s.cfgStore i x).cnt = s.cnt := rfl
@[simp] theorem State.cfgStore_dec (i : Fin 5) (x : Byte) (s : State) : (s.cfgStore i x).dec = s.dec := rfl
@[simp] theorem State.cfgStore_heater (i : Fin 5) (x : Byte) (s : State) : (s.cfgStore i x).heater = s.heater := rfl
@[simp] theorem State.cfgStore_pc (i : Fin 5) (x : Byte) (s : State) : (s.cfgStore i x).pc = s.pc := rfl
@[simp] theorem State.cfgStore_run (i : Fin 5) (x : Byte) (s : State) : (s.cfgStore i x).run = s.run := rfl
@[simp] theorem State.cfgStore_tr (i : Fin 5) (x : Byte) (s : State) : (s.cfgStore i x).tr = s.tr := rfl
@[simp] theorem State.cfgStore_first (i : Fin 5) (x : Byte) (s : State) : (s.cfgStore i x).first = s.first := rfl
@[simp] theorem State.cfgStore_entered (i : Fin 5) (x : Byte) (s : State) : (s.cfgStore i x).entered = s.entered := rfl
@[simp] theorem State.cfgStore_written (i : Fin 5) (x : Byte) (s : State) : (s.cfgStore i x).written = s.written := rfl
@[simp] theorem State.cfgStore_port (i : Fin 5) (x : Byte) (s : State) : (s.cfgStore i x).port = s.port.emit (.cfgStore i.val x) := rfl
@[simp] theorem State.cfgStore_rom (i : Fin 5) (x : Byte) (s : State) : (s.cfgStore i x).rom = s.rom := rfl
@[simp] theorem State.cfgStore_direct (i : Fin 5) (x : Byte) (s : State) : (s.cfgStore i x).direct = s.direct := rfl
@[simp] theorem State.cfgStore_env (i : Fin 5) (x : Byte) (s : State) : (s.cfgStore i x).env = { s.env with cfg := s.env.cfg.write i x } := rfl

/-! ### `pollInputs` -/

@[simp] theorem State.pollInputs_sp (s : State) : (s.pollInputs.2).sp = s.sp := rfl
@[simp] theorem State.pollInputs_t (s : State) : (s.pollInputs.2).t = s.t := rfl
@[simp] theorem State.pollInputs_v (s : State) : (s.pollInputs.2).v = s.v := rfl
@[simp] theorem State.pollInputs_acc (s : State) : (s.pollInputs.2).acc = s.acc := rfl
@[simp] theorem State.pollInputs_ns (s : State) : (s.pollInputs.2).ns = s.ns := rfl
@[simp] theorem State.pollInputs_tgt (s : State) : (s.pollInputs.2).tgt = s.tgt := rfl
@[simp] theorem State.pollInputs_cnt (s : State) : (s.pollInputs.2).cnt = s.cnt := rfl
@[simp] theorem State.pollInputs_dec (s : State) : (s.pollInputs.2).dec = s.dec := rfl
@[simp] theorem State.pollInputs_heater (s : State) : (s.pollInputs.2).heater = s.heater := rfl
@[simp] theorem State.pollInputs_pc (s : State) : (s.pollInputs.2).pc = s.pc := rfl
@[simp] theorem State.pollInputs_run (s : State) : (s.pollInputs.2).run = s.run := rfl
@[simp] theorem State.pollInputs_tr (s : State) : (s.pollInputs.2).tr = s.tr := rfl
@[simp] theorem State.pollInputs_first (s : State) : (s.pollInputs.2).first = s.first := rfl
@[simp] theorem State.pollInputs_entered (s : State) : (s.pollInputs.2).entered = s.entered := rfl
@[simp] theorem State.pollInputs_written (s : State) : (s.pollInputs.2).written = s.written := rfl
@[simp] theorem State.pollInputs_port (s : State) : (s.pollInputs.2).port = s.port.emit (.pollInputs s.env.buttons.1) := rfl
@[simp] theorem State.pollInputs_rom (s : State) : (s.pollInputs.2).rom = s.rom := rfl
@[simp] theorem State.pollInputs_direct (s : State) : (s.pollInputs.2).direct = s.direct := rfl
@[simp] theorem State.pollInputs_env (s : State) : (s.pollInputs.2).env = s.env.buttons.2 := rfl

/-! ### `pollMode` -/

@[simp] theorem State.pollMode_sp (s : State) : (s.pollMode.2).sp = s.sp := rfl
@[simp] theorem State.pollMode_t (s : State) : (s.pollMode.2).t = s.t := rfl
@[simp] theorem State.pollMode_v (s : State) : (s.pollMode.2).v = s.v := rfl
@[simp] theorem State.pollMode_acc (s : State) : (s.pollMode.2).acc = s.acc := rfl
@[simp] theorem State.pollMode_ns (s : State) : (s.pollMode.2).ns = s.ns := rfl
@[simp] theorem State.pollMode_tgt (s : State) : (s.pollMode.2).tgt = s.tgt := rfl
@[simp] theorem State.pollMode_cnt (s : State) : (s.pollMode.2).cnt = s.cnt := rfl
@[simp] theorem State.pollMode_dec (s : State) : (s.pollMode.2).dec = s.dec := rfl
@[simp] theorem State.pollMode_heater (s : State) : (s.pollMode.2).heater = s.heater := rfl
@[simp] theorem State.pollMode_pc (s : State) : (s.pollMode.2).pc = s.pc := rfl
@[simp] theorem State.pollMode_run (s : State) : (s.pollMode.2).run = s.run := rfl
@[simp] theorem State.pollMode_tr (s : State) : (s.pollMode.2).tr = s.tr := rfl
@[simp] theorem State.pollMode_first (s : State) : (s.pollMode.2).first = s.first := rfl
@[simp] theorem State.pollMode_entered (s : State) : (s.pollMode.2).entered = s.entered := rfl
@[simp] theorem State.pollMode_written (s : State) : (s.pollMode.2).written = s.written := rfl
@[simp] theorem State.pollMode_port (s : State) : (s.pollMode.2).port = s.port.emit (.pollMode s.env.mode.1) := rfl
@[simp] theorem State.pollMode_rom (s : State) : (s.pollMode.2).rom = s.rom := rfl
@[simp] theorem State.pollMode_direct (s : State) : (s.pollMode.2).direct = s.direct := rfl
@[simp] theorem State.pollMode_env (s : State) : (s.pollMode.2).env = s.env.mode.2 := rfl

/-! ### `markEntered` -/

@[simp] theorem markEntered_sp (s : State) : (markEntered s).sp = s.sp := rfl
@[simp] theorem markEntered_t (s : State) : (markEntered s).t = s.t := rfl
@[simp] theorem markEntered_v (s : State) : (markEntered s).v = s.v := rfl
@[simp] theorem markEntered_acc (s : State) : (markEntered s).acc = s.acc := rfl
@[simp] theorem markEntered_ns (s : State) : (markEntered s).ns = s.ns := rfl
@[simp] theorem markEntered_tgt (s : State) : (markEntered s).tgt = s.tgt := rfl
@[simp] theorem markEntered_cnt (s : State) : (markEntered s).cnt = s.cnt := rfl
@[simp] theorem markEntered_dec (s : State) : (markEntered s).dec = s.dec := rfl
@[simp] theorem markEntered_heater (s : State) : (markEntered s).heater = s.heater := rfl
@[simp] theorem markEntered_pc (s : State) : (markEntered s).pc = s.pc := rfl
@[simp] theorem markEntered_run (s : State) : (markEntered s).run = s.run := rfl
@[simp] theorem markEntered_tr (s : State) : (markEntered s).tr = s.tr := rfl
@[simp] theorem markEntered_first (s : State) : (markEntered s).first = true := rfl
@[simp] theorem markEntered_entered (s : State) : (markEntered s).entered = true := rfl
@[simp] theorem markEntered_written (s : State) : (markEntered s).written = s.written := rfl
@[simp] theorem markEntered_port (s : State) : (markEntered s).port = s.port := rfl
@[simp] theorem markEntered_rom (s : State) : (markEntered s).rom = s.rom := rfl
@[simp] theorem markEntered_direct (s : State) : (markEntered s).direct = s.direct := rfl
@[simp] theorem markEntered_env (s : State) : (markEntered s).env = s.env := rfl

/-! ### `tickContinues` -/

@[simp] theorem tickContinues_sp (s : State) : (tickContinues s).sp = s.sp := rfl
@[simp] theorem tickContinues_t (s : State) : (tickContinues s).t = s.t := rfl
@[simp] theorem tickContinues_v (s : State) : (tickContinues s).v = s.v := rfl
@[simp] theorem tickContinues_acc (s : State) : (tickContinues s).acc = s.acc := rfl
@[simp] theorem tickContinues_ns (s : State) : (tickContinues s).ns = s.ns := rfl
@[simp] theorem tickContinues_tgt (s : State) : (tickContinues s).tgt = s.tgt := rfl
@[simp] theorem tickContinues_cnt (s : State) : (tickContinues s).cnt = s.cnt := rfl
@[simp] theorem tickContinues_dec (s : State) : (tickContinues s).dec = s.dec := rfl
@[simp] theorem tickContinues_heater (s : State) : (tickContinues s).heater = s.heater := rfl
@[simp] theorem tickContinues_pc (s : State) : (tickContinues s).pc = s.pc := rfl
@[simp] theorem tickContinues_run (s : State) : (tickContinues s).run = s.run := rfl
@[simp] theorem tickContinues_tr (s : State) : (tickContinues s).tr = .continue := rfl
@[simp] theorem tickContinues_first (s : State) : (tickContinues s).first = false := rfl
@[simp] theorem tickContinues_entered (s : State) : (tickContinues s).entered = s.entered := rfl
@[simp] theorem tickContinues_written (s : State) : (tickContinues s).written = s.written := rfl
@[simp] theorem tickContinues_port (s : State) : (tickContinues s).port = s.port := rfl
@[simp] theorem tickContinues_rom (s : State) : (tickContinues s).rom = s.rom := rfl
@[simp] theorem tickContinues_direct (s : State) : (tickContinues s).direct = s.direct := rfl
@[simp] theorem tickContinues_env (s : State) : (tickContinues s).env = s.env := rfl

/-! ### `raiseUndervoltage` -/

@[simp] theorem raiseUndervoltage_sp (s : State) : (raiseUndervoltage s).sp = s.sp := rfl
@[simp] theorem raiseUndervoltage_t (s : State) : (raiseUndervoltage s).t = s.t := rfl
@[simp] theorem raiseUndervoltage_v (s : State) : (raiseUndervoltage s).v = s.v := rfl
@[simp] theorem raiseUndervoltage_acc (s : State) : (raiseUndervoltage s).acc = s.acc := rfl
@[simp] theorem raiseUndervoltage_ns (s : State) : (raiseUndervoltage s).ns = s.ns := rfl
@[simp] theorem raiseUndervoltage_tgt (s : State) : (raiseUndervoltage s).tgt = s.tgt := rfl
@[simp] theorem raiseUndervoltage_cnt (s : State) : (raiseUndervoltage s).cnt = s.cnt := rfl
@[simp] theorem raiseUndervoltage_dec (s : State) : (raiseUndervoltage s).dec = s.dec := rfl
@[simp] theorem raiseUndervoltage_heater (s : State) : (raiseUndervoltage s).heater = false := rfl
@[simp] theorem raiseUndervoltage_pc (s : State) : (raiseUndervoltage s).pc = faultVector := rfl
@[simp] theorem raiseUndervoltage_run (s : State) : (raiseUndervoltage s).run = s.run := rfl
@[simp] theorem raiseUndervoltage_tr (s : State) : (raiseUndervoltage s).tr = s.tr := rfl
@[simp] theorem raiseUndervoltage_first (s : State) : (raiseUndervoltage s).first = true := rfl
@[simp] theorem raiseUndervoltage_entered (s : State) : (raiseUndervoltage s).entered = true := rfl
@[simp] theorem raiseUndervoltage_written (s : State) : (raiseUndervoltage s).written = s.written := rfl
@[simp] theorem raiseUndervoltage_port (s : State) : (raiseUndervoltage s).port = s.port.emit (.heaterSet false) := rfl
@[simp] theorem raiseUndervoltage_rom (s : State) : (raiseUndervoltage s).rom = s.rom := rfl
@[simp] theorem raiseUndervoltage_direct (s : State) : (raiseUndervoltage s).direct = s.direct := rfl
@[simp] theorem raiseUndervoltage_env (s : State) : (raiseUndervoltage s).env = s.env := rfl

/-! ### `returnToIdle` -/

@[simp] theorem returnToIdle_sp (s : State) : (returnToIdle s).sp = s.sp := rfl
@[simp] theorem returnToIdle_t (s : State) : (returnToIdle s).t = s.t := rfl
@[simp] theorem returnToIdle_v (s : State) : (returnToIdle s).v = s.v := rfl
@[simp] theorem returnToIdle_acc (s : State) : (returnToIdle s).acc = s.acc := rfl
@[simp] theorem returnToIdle_ns (s : State) : (returnToIdle s).ns = s.ns := rfl
@[simp] theorem returnToIdle_tgt (s : State) : (returnToIdle s).tgt = s.tgt := rfl
@[simp] theorem returnToIdle_cnt (s : State) : (returnToIdle s).cnt = s.cnt := rfl
@[simp] theorem returnToIdle_dec (s : State) : (returnToIdle s).dec = s.dec := rfl
@[simp] theorem returnToIdle_heater (s : State) : (returnToIdle s).heater = s.heater := rfl
@[simp] theorem returnToIdle_pc (s : State) : (returnToIdle s).pc = s.pc := rfl
@[simp] theorem returnToIdle_run (s : State) : (returnToIdle s).run = false := rfl
@[simp] theorem returnToIdle_tr (s : State) : (returnToIdle s).tr = s.tr := rfl
@[simp] theorem returnToIdle_first (s : State) : (returnToIdle s).first = s.first := rfl
@[simp] theorem returnToIdle_entered (s : State) : (returnToIdle s).entered = false := rfl
@[simp] theorem returnToIdle_written (s : State) : (returnToIdle s).written = s.written := rfl
@[simp] theorem returnToIdle_port (s : State) : (returnToIdle s).port = s.port := rfl
@[simp] theorem returnToIdle_rom (s : State) : (returnToIdle s).rom = s.rom := rfl
@[simp] theorem returnToIdle_direct (s : State) : (returnToIdle s).direct = s.direct := rfl
@[simp] theorem returnToIdle_env (s : State) : (returnToIdle s).env = s.env := rfl

/-! ### `decideHeat` -/

@[simp] theorem State.decideHeat_sp (s : State) : (s.decideHeat).sp = s.sp := rfl
@[simp] theorem State.decideHeat_t (s : State) : (s.decideHeat).t = s.t := rfl
@[simp] theorem State.decideHeat_v (s : State) : (s.decideHeat).v = s.v := rfl
@[simp] theorem State.decideHeat_acc (s : State) : (s.decideHeat).acc = s.acc := rfl
@[simp] theorem State.decideHeat_ns (s : State) : (s.decideHeat).ns = s.ns := rfl
@[simp] theorem State.decideHeat_tgt (s : State) : (s.decideHeat).tgt = s.tgt := rfl
@[simp] theorem State.decideHeat_cnt (s : State) : (s.decideHeat).cnt = s.cnt := rfl
@[simp] theorem State.decideHeat_dec (s : State) : (s.decideHeat).dec = bangBang s.t s.tgt s.v := rfl
@[simp] theorem State.decideHeat_heater (s : State) : (s.decideHeat).heater = s.heater := rfl
@[simp] theorem State.decideHeat_pc (s : State) : (s.decideHeat).pc = s.pc := rfl
@[simp] theorem State.decideHeat_run (s : State) : (s.decideHeat).run = s.run := rfl
@[simp] theorem State.decideHeat_tr (s : State) : (s.decideHeat).tr = s.tr := rfl
@[simp] theorem State.decideHeat_first (s : State) : (s.decideHeat).first = s.first := rfl
@[simp] theorem State.decideHeat_entered (s : State) : (s.decideHeat).entered = s.entered := rfl
@[simp] theorem State.decideHeat_written (s : State) : (s.decideHeat).written = s.written := rfl
@[simp] theorem State.decideHeat_port (s : State) : (s.decideHeat).port = s.port := rfl
@[simp] theorem State.decideHeat_rom (s : State) : (s.decideHeat).rom = s.rom := rfl
@[simp] theorem State.decideHeat_direct (s : State) : (s.decideHeat).direct = s.direct := rfl
@[simp] theorem State.decideHeat_env (s : State) : (s.decideHeat).env = s.env := rfl

/-! ### `driveHeater` -/

@[simp] theorem State.driveHeater_sp (s : State) : (s.driveHeater).sp = s.sp := rfl
@[simp] theorem State.driveHeater_t (s : State) : (s.driveHeater).t = s.t := rfl
@[simp] theorem State.driveHeater_v (s : State) : (s.driveHeater).v = s.v := rfl
@[simp] theorem State.driveHeater_acc (s : State) : (s.driveHeater).acc = s.acc := rfl
@[simp] theorem State.driveHeater_ns (s : State) : (s.driveHeater).ns = s.ns := rfl
@[simp] theorem State.driveHeater_tgt (s : State) : (s.driveHeater).tgt = s.tgt := rfl
@[simp] theorem State.driveHeater_cnt (s : State) : (s.driveHeater).cnt = s.cnt := rfl
@[simp] theorem State.driveHeater_dec (s : State) : (s.driveHeater).dec = s.dec := rfl
@[simp] theorem State.driveHeater_heater (s : State) : (s.driveHeater).heater = (s.dec == .energize) := rfl
@[simp] theorem State.driveHeater_pc (s : State) : (s.driveHeater).pc = s.pc := rfl
@[simp] theorem State.driveHeater_run (s : State) : (s.driveHeater).run = s.run := rfl
@[simp] theorem State.driveHeater_tr (s : State) : (s.driveHeater).tr = s.tr := rfl
@[simp] theorem State.driveHeater_first (s : State) : (s.driveHeater).first = s.first := rfl
@[simp] theorem State.driveHeater_entered (s : State) : (s.driveHeater).entered = s.entered := rfl
@[simp] theorem State.driveHeater_written (s : State) : (s.driveHeater).written = s.written := rfl
@[simp] theorem State.driveHeater_port (s : State) : (s.driveHeater).port = s.port.emit (.heaterSet (s.dec == .energize)) := rfl
@[simp] theorem State.driveHeater_rom (s : State) : (s.driveHeater).rom = s.rom := rfl
@[simp] theorem State.driveHeater_direct (s : State) : (s.driveHeater).direct = s.direct := rfl
@[simp] theorem State.driveHeater_env (s : State) : (s.driveHeater).env = s.env := rfl

/-! ### `acquireOne` -/

@[simp] theorem State.acquireOne_sp (ch : Channel) (s : State) : (s.acquireOne ch).sp = s.sp := rfl
@[simp] theorem State.acquireOne_t (ch : Channel) (s : State) : (s.acquireOne ch).t = s.t := rfl
@[simp] theorem State.acquireOne_v (ch : Channel) (s : State) : (s.acquireOne ch).v = s.v := rfl
@[simp] theorem State.acquireOne_acc (ch : Channel) (s : State) : (s.acquireOne ch).acc = s.acc + (s.env.sample ch).1.setWidth 16 := rfl
@[simp] theorem State.acquireOne_ns (ch : Channel) (s : State) : (s.acquireOne ch).ns = s.ns - 1 := rfl
@[simp] theorem State.acquireOne_tgt (ch : Channel) (s : State) : (s.acquireOne ch).tgt = s.tgt := rfl
@[simp] theorem State.acquireOne_cnt (ch : Channel) (s : State) : (s.acquireOne ch).cnt = s.cnt := rfl
@[simp] theorem State.acquireOne_dec (ch : Channel) (s : State) : (s.acquireOne ch).dec = s.dec := rfl
@[simp] theorem State.acquireOne_heater (ch : Channel) (s : State) : (s.acquireOne ch).heater = s.heater := rfl
@[simp] theorem State.acquireOne_pc (ch : Channel) (s : State) : (s.acquireOne ch).pc = s.pc := rfl
@[simp] theorem State.acquireOne_run (ch : Channel) (s : State) : (s.acquireOne ch).run = s.run := rfl
@[simp] theorem State.acquireOne_tr (ch : Channel) (s : State) : (s.acquireOne ch).tr = s.tr := rfl
@[simp] theorem State.acquireOne_first (ch : Channel) (s : State) : (s.acquireOne ch).first = s.first := rfl
@[simp] theorem State.acquireOne_entered (ch : Channel) (s : State) : (s.acquireOne ch).entered = s.entered := rfl
@[simp] theorem State.acquireOne_written (ch : Channel) (s : State) : (s.acquireOne ch).written = s.written := rfl
@[simp] theorem State.acquireOne_port (ch : Channel) (s : State) : (s.acquireOne ch).port = s.port.emit (.adcRead ch (s.env.sample ch).1) := rfl
@[simp] theorem State.acquireOne_rom (ch : Channel) (s : State) : (s.acquireOne ch).rom = s.rom := rfl
@[simp] theorem State.acquireOne_direct (ch : Channel) (s : State) : (s.acquireOne ch).direct = s.direct := rfl
@[simp] theorem State.acquireOne_env (ch : Channel) (s : State) : (s.acquireOne ch).env = (s.env.sample ch).2 := rfl

/-! ### `heatEntry` -/

@[simp] theorem heatEntry_sp (i : Fin 5) (s : State) : (heatEntry i s).sp = s.sp := rfl
@[simp] theorem heatEntry_t (i : Fin 5) (s : State) : (heatEntry i s).t = s.t := rfl
@[simp] theorem heatEntry_v (i : Fin 5) (s : State) : (heatEntry i s).v = s.v := rfl
@[simp] theorem heatEntry_acc (i : Fin 5) (s : State) : (heatEntry i s).acc = s.acc := rfl
@[simp] theorem heatEntry_ns (i : Fin 5) (s : State) : (heatEntry i s).ns = s.ns := rfl
@[simp] theorem heatEntry_tgt (i : Fin 5) (s : State) : (heatEntry i s).tgt = s.sp[i] := rfl
@[simp] theorem heatEntry_cnt (i : Fin 5) (s : State) : (heatEntry i s).cnt = s.cnt := rfl
@[simp] theorem heatEntry_dec (i : Fin 5) (s : State) : (heatEntry i s).dec = s.dec := rfl
@[simp] theorem heatEntry_heater (i : Fin 5) (s : State) : (heatEntry i s).heater = s.heater := rfl
@[simp] theorem heatEntry_pc (i : Fin 5) (s : State) : (heatEntry i s).pc = s.pc := rfl
@[simp] theorem heatEntry_run (i : Fin 5) (s : State) : (heatEntry i s).run = s.run := rfl
@[simp] theorem heatEntry_tr (i : Fin 5) (s : State) : (heatEntry i s).tr = s.tr := rfl
@[simp] theorem heatEntry_first (i : Fin 5) (s : State) : (heatEntry i s).first = true := rfl
@[simp] theorem heatEntry_entered (i : Fin 5) (s : State) : (heatEntry i s).entered = true := rfl
@[simp] theorem heatEntry_written (i : Fin 5) (s : State) : (heatEntry i s).written = { s.written with tgt := true } := rfl
@[simp] theorem heatEntry_port (i : Fin 5) (s : State) : (heatEntry i s).port = s.port := rfl
@[simp] theorem heatEntry_rom (i : Fin 5) (s : State) : (heatEntry i s).rom = s.rom := rfl
@[simp] theorem heatEntry_direct (i : Fin 5) (s : State) : (heatEntry i s).direct = s.direct := rfl
@[simp] theorem heatEntry_env (i : Fin 5) (s : State) : (heatEntry i s).env = s.env := rfl

/-! ### `holdEntry` -/

@[simp] theorem holdEntry_sp (i j : Fin 5) (s : State) : (holdEntry i j s).sp = s.sp := rfl
@[simp] theorem holdEntry_t (i j : Fin 5) (s : State) : (holdEntry i j s).t = s.t := rfl
@[simp] theorem holdEntry_v (i j : Fin 5) (s : State) : (holdEntry i j s).v = s.v := rfl
@[simp] theorem holdEntry_acc (i j : Fin 5) (s : State) : (holdEntry i j s).acc = s.acc := rfl
@[simp] theorem holdEntry_ns (i j : Fin 5) (s : State) : (holdEntry i j s).ns = s.ns := rfl
@[simp] theorem holdEntry_tgt (i j : Fin 5) (s : State) : (holdEntry i j s).tgt = s.sp[i] := rfl
@[simp] theorem holdEntry_cnt (i j : Fin 5) (s : State) : (holdEntry i j s).cnt = s.sp[j] := rfl
@[simp] theorem holdEntry_dec (i j : Fin 5) (s : State) : (holdEntry i j s).dec = s.dec := rfl
@[simp] theorem holdEntry_heater (i j : Fin 5) (s : State) : (holdEntry i j s).heater = s.heater := rfl
@[simp] theorem holdEntry_pc (i j : Fin 5) (s : State) : (holdEntry i j s).pc = s.pc := rfl
@[simp] theorem holdEntry_run (i j : Fin 5) (s : State) : (holdEntry i j s).run = s.run := rfl
@[simp] theorem holdEntry_tr (i j : Fin 5) (s : State) : (holdEntry i j s).tr = s.tr := rfl
@[simp] theorem holdEntry_first (i j : Fin 5) (s : State) : (holdEntry i j s).first = true := rfl
@[simp] theorem holdEntry_entered (i j : Fin 5) (s : State) : (holdEntry i j s).entered = true := rfl
@[simp] theorem holdEntry_written (i j : Fin 5) (s : State) : (holdEntry i j s).written = { s.written with tgt := true, cnt := true } := rfl
@[simp] theorem holdEntry_port (i j : Fin 5) (s : State) : (holdEntry i j s).port = s.port := rfl
@[simp] theorem holdEntry_rom (i j : Fin 5) (s : State) : (holdEntry i j s).rom = s.rom := rfl
@[simp] theorem holdEntry_direct (i j : Fin 5) (s : State) : (holdEntry i j s).direct = s.direct := rfl
@[simp] theorem holdEntry_env (i j : Fin 5) (s : State) : (holdEntry i j s).env = s.env := rfl

/-! ### `coolEntry` -/

@[simp] theorem coolEntry_sp (s : State) : (coolEntry s).sp = s.sp := rfl
@[simp] theorem coolEntry_t (s : State) : (coolEntry s).t = s.t := rfl
@[simp] theorem coolEntry_v (s : State) : (coolEntry s).v = s.v := rfl
@[simp] theorem coolEntry_acc (s : State) : (coolEntry s).acc = s.acc := rfl
@[simp] theorem coolEntry_ns (s : State) : (coolEntry s).ns = s.ns := rfl
@[simp] theorem coolEntry_tgt (s : State) : (coolEntry s).tgt = s.tgt := rfl
@[simp] theorem coolEntry_cnt (s : State) : (coolEntry s).cnt = s.cnt := rfl
@[simp] theorem coolEntry_dec (s : State) : (coolEntry s).dec = s.dec := rfl
@[simp] theorem coolEntry_heater (s : State) : (coolEntry s).heater = false := rfl
@[simp] theorem coolEntry_pc (s : State) : (coolEntry s).pc = s.pc := rfl
@[simp] theorem coolEntry_run (s : State) : (coolEntry s).run = s.run := rfl
@[simp] theorem coolEntry_tr (s : State) : (coolEntry s).tr = s.tr := rfl
@[simp] theorem coolEntry_first (s : State) : (coolEntry s).first = true := rfl
@[simp] theorem coolEntry_entered (s : State) : (coolEntry s).entered = true := rfl
@[simp] theorem coolEntry_written (s : State) : (coolEntry s).written = s.written := rfl
@[simp] theorem coolEntry_port (s : State) : (coolEntry s).port = s.port.emit (.heaterSet false) := rfl
@[simp] theorem coolEntry_rom (s : State) : (coolEntry s).rom = s.rom := rfl
@[simp] theorem coolEntry_direct (s : State) : (coolEntry s).direct = s.direct := rfl
@[simp] theorem coolEntry_env (s : State) : (coolEntry s).env = s.env := rfl

/-- What polling answers. -/
@[simp] theorem State.pollInputs_answer (s : State) : s.pollInputs.1 = s.env.buttons.1 := rfl

/-- What polling the mode answers. -/
@[simp] theorem State.pollMode_answer (s : State) : s.pollMode.1 = s.env.mode.1 := rfl

/-- What loading a slot answers. -/
@[simp] theorem State.cfgLoad_answer (i : Fin 5) (s : State) : (s.cfgLoad i).1 = s.env.cfg.read i := rfl

end Sys2Proof.Machine
end

