-- ==== Sys2Proof/Laws/Link.lean ====
section
/-! SUPPORT. What each operation on the link does to the port: the writes it emits and the levels it leaves
(42_display_wire.md R112 to R119, 43_display_dispatch.md R126 to R132). -/

namespace Sys2Proof.Machine

/-- A pulse leaves the clock low and the data at its level (R114). -/
theorem Port.txBit_eq (b : Bool) (p : Port) :
    p.txBit b = { p with scl := false, sda := b, trace := (bitEvents b).reverse ++ p.trace } := rfl

/-- A pulse of a byte also counts (10_state.md R32). -/
theorem Port.pulse_eq (b : Bool) (p : Port) :
    p.pulse b =
      { p with scl := false, sda := b, bitc := p.bitc - 1, trace := (bitEvents b).reverse ++ p.trace } := rfl

/-- A byte: 27 writes, the clock low, the data released (R115). -/
theorem Port.txByte_eq (v : Byte) (p : Port) :
    p.txByte v =
      { scl := false, sda := true, shr := v, bitc := 0, trace := (byteEvents v).reverse ++ p.trace } := by
  simp only [Port.txByte, List.foldl_cons, List.foldl_nil, Port.pulse_eq, byteEvents, List.reverse_append,
    List.append_assoc]
  rfl

/-- A start condition (R112). -/
theorem Port.start_eq (p : Port) :
    p.start = { p with scl := false, sda := false, trace := startEvents.reverse ++ p.trace } := rfl

/-- A stop condition (R113). -/
theorem Port.stop_eq (p : Port) :
    p.stop = { p with scl := true, sda := true, trace := stopEvents.reverse ++ p.trace } := rfl

/-- The last byte of a list, or `x` if there is none. -/
def lastByte (x : Byte) (bytes : List Byte) : Byte := bytes.foldl (fun _ b => b) x

/-- The payload of a transaction. -/
theorem Port.txBytes_eq (bytes : List Byte) (x : Byte) (tr : List Event) :
    Port.txBytes bytes { scl := false, sda := true, shr := x, bitc := 0, trace := tr } =
      { scl := false, sda := true, shr := lastByte x bytes, bitc := 0
        trace := (bytes.flatMap byteEvents).reverse ++ tr } := by
  induction bytes generalizing x tr with
  | nil => rfl
  | cons b bytes ih =>
    have h : Port.txBytes (b :: bytes) { scl := false, sda := true, shr := x, bitc := 0, trace := tr } =
        Port.txBytes bytes (Port.txByte b { scl := false, sda := true, shr := x, bitc := 0, trace := tr }) := rfl
    rw [h, Port.txByte_eq, ih]
    simp [lastByte]

/-- A transaction: its writes, and an idle link (R117). -/
theorem Port.tx_eq (stream : Bool) (bytes : List Byte) (p : Port) :
    p.tx stream bytes =
      { scl := true, sda := true, shr := lastByte (headerByte Config.dispAddr stream) bytes, bitc := 0
        trace := (txEvents stream bytes).reverse ++ p.trace } := by
  simp only [Port.tx, Port.txByte_eq, Port.txBytes_eq, Port.stop_eq, Port.start_eq, txEvents, List.reverse_append,
    List.append_assoc]

/-! ### Levels and waveform (R121) -/

/-- Writing a line gives the registers the levels after its event (R111). -/
theorem Port.levels_wire (line : Line) (level : Bool) (p : Port) :
    (p.wire line level).levels = p.levels.after (.wire line level) := by cases line <;> rfl

@[simp] theorem levelsAfter_nil (l : Levels) : levelsAfter l [] = l := rfl

@[simp] theorem levelsAfter_cons (l : Levels) (e : Event) (evs : List Event) :
    levelsAfter l (e :: evs) = levelsAfter (l.after e) evs := rfl

@[simp] theorem levelsAfter_append (l : Levels) (as bs : List Event) :
    levelsAfter l (as ++ bs) = levelsAfter (levelsAfter l as) bs := List.foldl_append

/-- A byte leaves the clock low and the data released, from any levels (R115). -/
@[simp] theorem levelsAfter_byteEvents (l : Levels) (v : Byte) :
    levelsAfter l (byteEvents v) = { scl := false, sda := true } := rfl

/-- Removing the writes that repeat a level leaves the line levels as they are (R121). -/
theorem levelsAfter_waveform (l : Levels) (evs : List Event) (h : ∀ e ∈ evs, isWire e = true) :
    levelsAfter l (waveform l evs) = levelsAfter l evs := by
  induction evs generalizing l with
  | nil => rfl
  | cons e evs ih =>
    have ih := fun m => ih m fun x hx => h x (List.mem_cons_of_mem _ hx)
    cases e with
    | wire line level =>
      by_cases hl : l.after (.wire line level) = l
      · rw [levelsAfter_cons, hl, waveform, if_pos hl]; exact ih l
      · rw [waveform, if_neg hl]; exact ih _
    | _ => simpa [isWire] using h _ List.mem_cons_self

/-- Events that write no line are not seen on the pins (R121). -/
theorem waveform_isWire (l : Levels) (evs : List Event) : ∀ e ∈ waveform l evs, isWire e = true := by
  induction evs generalizing l with
  | nil => simp [waveform]
  | cons e evs ih =>
    cases e with
    | wire line level =>
      unfold waveform
      split
      · exact ih _
      · simpa [isWire] using ih _
    | _ => exact ih _

/-- The command bytes of the cursor, as the numbers of R126. -/
theorem cursorBytes_eq (row : BitVec 3) (col : Byte) :
    cursorBytes row col = [0xB0 ||| row.setWidth 8, 0x10 ||| col >>> 4, col &&& 0x0F] := by
  revert row col; decide +kernel

/-- The glyph bytes, one by one (R127). -/
theorem glyphBytes_eq (c : Byte) :
    glyphBytes c = [Config.font (c.toNat - 32) 0, Config.font (c.toNat - 32) 1, Config.font (c.toNat - 32) 2,
      Config.font (c.toNat - 32) 3, Config.font (c.toNat - 32) 4, Config.font (c.toNat - 32) 5] := rfl

/-- `q` is `p` after the writes `evs` of whole transactions: the link is idle again, and the trace has grown by them. -/
structure Sent (evs : List Event) (p q : Port) : Prop where
  idle : q.idle = true
  trace : q.trace = evs.reverse ++ p.trace

theorem Sent.append {as bs : List Event} {p q r : Port} (h : Sent as p q) (h' : Sent bs q r) : Sent (as ++ bs) p r :=
  ⟨h'.idle, by rw [h'.trace, h.trace, List.reverse_append, List.append_assoc]⟩

theorem Port.tx_sent (stream : Bool) (bytes : List Byte) (p : Port) : Sent (txEvents stream bytes) p (p.tx stream bytes) := by
  rw [Port.tx_eq]; exact ⟨rfl, rfl⟩

/-- `SETCUR` (R126). -/
theorem Port.setCursor_sent (row : BitVec 3) (col : Byte) (p : Port) :
    Sent (cursorEvents row col) p (p.setCursor row col) := by
  unfold Port.setCursor Port.cmdTx cursorEvents
  rw [cursorBytes_eq]
  exact Port.tx_sent _ _ p

/-- `PUTCH` (R127). -/
theorem Port.putChar_sent (c : Byte) (p : Port) : Sent (charEvents c) p (p.putChar c) := by
  unfold Port.putChar Port.dataTx charEvents
  rw [glyphBytes_eq]
  exact Port.tx_sent _ _ p

/-- One page of `CLEAR` (R128). -/
theorem Port.clearPage_sent (n : Nat) (p : Port) : Sent (pageEvents (BitVec.ofNat 3 n)) p (p.clearPage n) :=
  (Port.setCursor_sent _ 0 p).append (Port.tx_sent true _ _)

/-- `CLEAR` (R128). -/
theorem Port.clear_sent (p : Port) : Sent clearEvents p p.clear := by
  have h : p.clear = ((((((((p.clearPage 0).clearPage 1).clearPage 2).clearPage 3).clearPage 4).clearPage 5).clearPage
    6).clearPage 7) := rfl
  rw [h]
  exact ((((((((Port.clearPage_sent 0 p).append (Port.clearPage_sent 1 _)).append (Port.clearPage_sent 2 _)).append
    (Port.clearPage_sent 3 _)).append (Port.clearPage_sent 4 _)).append (Port.clearPage_sent 5 _)).append
    (Port.clearPage_sent 6 _)).append (Port.clearPage_sent 7 _))

/-- A word that a render list may hold is refused by none of R132's tests. -/
theorem renderWordRefusal_legal (w : OpWord) (h : renderWordLegal w = true) : renderWordRefusal w = none := by
  unfold renderWordLegal at h
  unfold renderWordRefusal
  split at h <;> simp_all

/-- An illegal word is refused. -/
theorem renderWordRefusal_illegal (w : OpWord) (h : renderWordLegal w = false) : ∃ r, renderWordRefusal w = some r := by
  unfold renderWordLegal at h
  unfold renderWordRefusal
  split at h
  · simp at h
  · simp at h
  · simp at h
  · split
    · simp_all
    · simp_all
    · simp_all
    · exact ⟨_, rfl⟩
    · exact ⟨_, rfl⟩

theorem renderRefusal_legal (ws : List OpWord) (h : ∀ w ∈ ws, renderWordLegal w = true) : renderRefusal ws = none := by
  induction ws with
  | nil => rfl
  | cons w ws ih =>
    simp only [renderRefusal, renderWordRefusal_legal w (h w (List.mem_cons_self ..))]
    exact ih fun x hx => h x (List.mem_cons_of_mem _ hx)

/-- The contract of `RENDER`: its list is never refused (R132). -/
@[simp] theorem renderRefusal_render (c : RenderContext) : renderRefusal (Config.render c) = none :=
  renderRefusal_legal _ fun w hw => Config.params.render_legal c w hw

/-- A display word sends its writes (R126 to R128). -/
theorem drawWord_sent (w : OpWord) (h : renderWordLegal w = true) (p : Port) : Sent (wordEvents w) p (drawWord w p) := by
  unfold renderWordLegal at h
  cases hd : decodeOp w with
  | error e => simp [hd] at h
  | ok i =>
    cases i with
    | setcur row col => simpa [drawWord, wordEvents, hd] using Port.setCursor_sent row col p
    | putch c => simpa [drawWord, wordEvents, hd] using Port.putChar_sent c p
    | clear => simpa [drawWord, wordEvents, hd] using Port.clear_sent p
    | _ => simp [hd] at h

/-- A render list sends the writes of its words in order, from an idle link to an idle link (R125, R132). -/
theorem drawWords_sent (ws : List OpWord) (h : ∀ w ∈ ws, renderWordLegal w = true) (p : Port) (hp : p.idle = true) :
    Sent (ws.flatMap wordEvents) p (drawWords ws p) := by
  induction ws generalizing p with
  | nil => exact ⟨hp, rfl⟩
  | cons w ws ih =>
    have h1 := drawWord_sent w (h w (List.mem_cons_self ..)) p
    have h2 := ih (fun x hx => h x (List.mem_cons_of_mem _ hx)) (drawWord w p) h1.idle
    exact h1.append h2

/-- The trace grows by the writes of the words from any link (R132). -/
theorem drawWords_trace (ws : List OpWord) (h : ∀ w ∈ ws, renderWordLegal w = true) (p : Port) :
    (drawWords ws p).trace = (ws.flatMap wordEvents).reverse ++ p.trace := by
  cases ws with
  | nil => rfl
  | cons w ws =>
    have h1 := drawWord_sent w (h w (List.mem_cons_self ..)) p
    have h2 := drawWords_sent ws (fun x hx => h x (List.mem_cons_of_mem _ hx)) (drawWord w p) h1.idle
    exact (h1.append h2).trace

/-- The port after the render list of a context. -/
def rendered (op : PhaseOp) (ra : Option (Fin 5)) (s : State) : State :=
  s.onPort (drawWords (Config.render (renderContext op ra s)))

/-- Rendering in a tick never stops the machine: it changes the port and goes on (R132, R133). -/
theorem render_eq (op : PhaseOp) (ra : Option (Fin 5)) (s : State) (k : State → Result) :
    render op ra s k = k (rendered op ra s) := by
  simp [render, runRenderList, rendered]

/-- The writes of a tick's render list. -/
theorem rendered_sent (op : PhaseOp) (ra : Option (Fin 5)) (s : State) (hp : s.port.idle = true) :
    Sent ((Config.render (renderContext op ra s)).flatMap wordEvents) s.port (rendered op ra s).port :=
  drawWords_sent _ (fun w hw => Config.params.render_legal _ w hw) _ hp

/-- The trace of a tick's render list, from any link. -/
theorem rendered_trace (op : PhaseOp) (ra : Option (Fin 5)) (s : State) :
    (rendered op ra s).port.trace = (renderEvents (renderContext op ra s)).reverse ++ s.port.trace :=
  drawWords_trace _ (fun w hw => Config.params.render_legal _ w hw) _

end Sys2Proof.Machine
end

