-- ==== Sys2Proof/Laws/Memory.lean ====
section
/-! SUPPORT. Lists of cells: a read after a write, the canonical form, and that equal reads are equal lists
(20_memory.md R62, log 3, log 4). -/

namespace Sys2Proof.Machine

variable {w : Nat}

theorem cellGet_cellPut (m : List (Nat × BitVec w)) (a b : Nat) (x : BitVec w) :
    cellGet (cellPut m a x) b = if a = b then some x else cellGet m b := by
  induction m with
  | nil => simp [cellPut, cellGet]
  | cons c m ih =>
    obtain ⟨k, v⟩ := c
    unfold cellPut
    split
    · simp [cellGet]
    · split
      · rename_i h; subst h; simp only [cellGet]; split <;> simp_all
      · rename_i h1 h2
        simp only [cellGet, ih]
        by_cases hk : k = b
        · subst hk; simp [Ne.symm h2]
        · simp [hk]

/-- Nothing is listed below the lower bound. -/
theorem cellGet_below (m : List (Nat × BitVec w)) (lo a : Nat) (h : cellsAbove lo m = true) (ha : a < lo) :
    cellGet m a = none := by
  induction m generalizing lo with
  | nil => rfl
  | cons c m ih =>
    obtain ⟨k, v⟩ := c
    simp only [cellsAbove, Bool.and_eq_true, decide_eq_true_eq] at h
    simp only [cellGet, show ¬ k = a by omega, if_false]
    exact ih (k + 1) h.2 (by omega)

theorem cellsAbove_mono (m : List (Nat × BitVec w)) (lo lo' : Nat) (h : cellsAbove lo m = true) (hl : lo' ≤ lo) :
    cellsAbove lo' m = true := by
  cases m with
  | nil => rfl
  | cons c m =>
    obtain ⟨k, v⟩ := c
    simp only [cellsAbove, Bool.and_eq_true, decide_eq_true_eq] at h ⊢
    exact ⟨by omega, h.2⟩

theorem cellsAbove_cellPut (m : List (Nat × BitVec w)) (lo a : Nat) (x : BitVec w) (h : cellsAbove lo m = true)
    (ha : lo ≤ a) : cellsAbove lo (cellPut m a x) = true := by
  induction m generalizing lo with
  | nil => simp [cellPut, cellsAbove, ha]
  | cons c m ih =>
    obtain ⟨k, v⟩ := c
    simp only [cellsAbove, Bool.and_eq_true, decide_eq_true_eq] at h
    unfold cellPut
    split
    · rename_i hk
      simp only [cellsAbove, Bool.and_eq_true, decide_eq_true_eq]
      exact ⟨ha, by omega, h.2⟩
    · split
      · rename_i hk; subst hk; simp [cellsAbove, h]
      · simp only [cellsAbove, Bool.and_eq_true, decide_eq_true_eq]
        exact ⟨h.1, ih (k + 1) h.2 (by omega)⟩

theorem cellsAbove_cellErase (m : List (Nat × BitVec w)) (lo a : Nat) (h : cellsAbove lo m = true) :
    cellsAbove lo (cellErase m a) = true := by
  induction m generalizing lo with
  | nil => rfl
  | cons c m ih =>
    obtain ⟨k, v⟩ := c
    simp only [cellsAbove, Bool.and_eq_true, decide_eq_true_eq] at h
    unfold cellErase
    split
    · exact cellsAbove_mono m (k + 1) lo h.2 (by omega)
    · simp only [cellsAbove, Bool.and_eq_true, decide_eq_true_eq]
      exact ⟨h.1, ih (k + 1) h.2⟩

theorem cellGet_cellErase (m : List (Nat × BitVec w)) (lo a b : Nat) (h : cellsAbove lo m = true) :
    cellGet (cellErase m a) b = if a = b then none else cellGet m b := by
  induction m generalizing lo with
  | nil => simp [cellErase, cellGet]
  | cons c m ih =>
    obtain ⟨k, v⟩ := c
    simp only [cellsAbove, Bool.and_eq_true, decide_eq_true_eq] at h
    unfold cellErase
    split
    · rename_i hk; subst hk
      by_cases hb : k = b
      · subst hb; simp only [if_true]; exact cellGet_below m (k + 1) k h.2 (by omega)
      · simp [cellGet, hb]
    · rename_i hk
      simp only [cellGet, ih (k + 1) h.2]
      by_cases hb : k = b
      · subst hb; simp [Ne.symm hk]
      · simp [hb]

theorem mem_cellPut (m : List (Nat × BitVec w)) (a : Nat) (x : BitVec w) (c : Nat × BitVec w)
    (h : c ∈ cellPut m a x) : c = (a, x) ∨ c ∈ m := by
  induction m with
  | nil => simpa [cellPut] using h
  | cons d m ih =>
    obtain ⟨k, v⟩ := d
    unfold cellPut at h
    split at h
    · simpa using h
    · split at h
      · simp only [List.mem_cons] at h ⊢; tauto
      · simp only [List.mem_cons] at h ⊢
        rcases h with h | h
        · exact .inr (.inl h)
        · rcases ih h with h | h <;> tauto

theorem mem_cellErase (m : List (Nat × BitVec w)) (a : Nat) (c : Nat × BitVec w) (h : c ∈ cellErase m a) : c ∈ m := by
  induction m with
  | nil => simp [cellErase] at h
  | cons d m ih =>
    obtain ⟨k, v⟩ := d
    unfold cellErase at h
    split at h
    · exact List.mem_cons_of_mem _ h
    · simp only [List.mem_cons] at h ⊢
      rcases h with h | h
      · exact .inl h
      · exact .inr (ih h)

/-- Lists in canonical form that answer every read alike are the same list. -/
theorem cells_ext (m n : List (Nat × BitVec w)) (lo : Nat) (hm : cellsAbove lo m = true) (hn : cellsAbove lo n = true)
    (h : ∀ a, cellGet m a = cellGet n a) : m = n := by
  induction m generalizing n lo with
  | nil =>
    cases n with
    | nil => rfl
    | cons c n => obtain ⟨k, v⟩ := c; have := h k; simp [cellGet] at this
  | cons c m ih =>
    obtain ⟨k, v⟩ := c
    simp only [cellsAbove, Bool.and_eq_true, decide_eq_true_eq] at hm
    cases n with
    | nil => have := h k; simp [cellGet] at this
    | cons d n =>
      obtain ⟨k', v'⟩ := d
      simp only [cellsAbove, Bool.and_eq_true, decide_eq_true_eq] at hn
      have hk : k = k' := by
        rcases Nat.lt_trichotomy k k' with hlt | heq | hgt
        · have := h k
          simp only [cellGet, if_true, show ¬ k' = k by omega, if_false] at this
          rw [cellGet_below n (k' + 1) k hn.2 (by omega)] at this; simp at this
        · exact heq
        · have := h k'
          simp only [cellGet, if_true, show ¬ k = k' by omega, if_false] at this
          rw [cellGet_below m (k + 1) k' hm.2 (by omega)] at this; simp at this
      subst hk
      have hv : v = v' := by have := h k; simpa [cellGet] using this
      subst hv
      congr 1
      refine ih n (k + 1) hm.2 hn.2 fun a => ?_
      by_cases ha : k = a
      · subst ha
        rw [cellGet_below m (k + 1) k hm.2 (by omega), cellGet_below n (k + 1) k hn.2 (by omega)]
      · have := h a; simpa [cellGet, ha] using this

/-- A store keeps the canonical form of the persistent store. -/
theorem Memory.write_wf (m : Memory) (i : Fin 5) (b : Byte) (h : Memory.wf m = true) : (m.write i b).wf = true := by
  simp only [Memory.wf, Memory.write, Bool.and_eq_true, List.all_eq_true, decide_eq_true_eq] at h ⊢
  refine ⟨cellsAbove_cellPut m 0 i.val b h.1 (Nat.zero_le _), fun c hc => ?_⟩
  rcases mem_cellPut m i.val b c hc with rfl | hc
  · exact i.isLt
  · exact h.2 c hc

/-- A load after a store to the same slot returns the byte (20_memory.md R62). -/
@[simp] theorem Memory.read_write_same (m : Memory) (i : Fin 5) (b : Byte) : (m.write i b).read i = b := by
  simp [Memory.read, Memory.write, cellGet_cellPut]

/-- A store leaves every other slot alone (R62). -/
theorem Memory.read_write_other (m : Memory) (i j : Fin 5) (b : Byte) (h : i ≠ j) : (m.write i b).read j = m.read j := by
  have : ¬ i.val = j.val := fun he => h (Fin.ext he)
  simp [Memory.read, Memory.write, cellGet_cellPut, this]

/-- A patch keeps the canonical form of the ROM. -/
theorem RomPatch.write_wf (m : RomPatch) (a : Nat) (x : OpWord) (ha : a < 32) (h : RomPatch.wf m = true) :
    (m.write a x).wf = true := by
  simp only [RomPatch.wf, RomPatch.write, Bool.and_eq_true, List.all_eq_true, decide_eq_true_eq] at h ⊢
  split
  · exact ⟨cellsAbove_cellErase m 0 a h.1, fun c hc => h.2 c (mem_cellErase m a c hc)⟩
  · rename_i hx
    refine ⟨cellsAbove_cellPut m 0 a x h.1 (Nat.zero_le _), fun c hc => ?_⟩
    rcases mem_cellPut m a x c hc with rfl | hc
    · exact ⟨ha, hx⟩
    · exact h.2 c hc

/-- A patched word reads as patched, and every other word as before. -/
theorem RomPatch.read_write (m : RomPatch) (a b : Nat) (x : OpWord) (h : RomPatch.wf m = true) :
    (m.write a x).read b = if a = b then x else m.read b := by
  simp only [RomPatch.wf, Bool.and_eq_true] at h
  unfold RomPatch.read RomPatch.write
  split
  · rename_i hx
    rw [cellGet_cellErase m 0 a b h.1]
    by_cases hb : a = b
    · subst hb; simp [hx]
    · simp [hb]
  · rw [cellGet_cellPut]; split <;> simp

/-- The empty store and the unpatched ROM are in canonical form. -/
theorem reset_memory_wf : State.reset.env.cfg.wf = true ∧ State.reset.rom.wf = true := by decide

end Sys2Proof.Machine
end

