-- ==== Sys2Proof/Laws/Sensors.lean ====
section
/-! SUPPORT. The readings in closed form, and the laws of the rounding parameter (40_sensors.md R91 to R97). -/

namespace Sys2Proof

/-- `RND` is at least the floor (00_scope.md R8). -/
theorem floor_le_roundWith (up : Nat → Nat → Bool) (a b : Nat) : a / b ≤ roundWith up a b := Nat.le_add_right _ _

/-- `RND` is the identity on integers (R8). -/
theorem roundWith_integer (up : Nat → Nat → Bool) (a b : Nat) (h : a % b = 0) : roundWith up a b = a / b := by
  simp [roundWith, h]

/-- `RND` is at most the ceiling (R8). -/
theorem roundWith_le_ceil (up : Nat → Nat → Bool) (a b n : Nat) (h : a ≤ n * b) : roundWith up a b ≤ n := by
  unfold roundWith
  have hd : a / b * b + a % b = a := Nat.div_add_mod' a b
  split
  · simpa using Nat.div_le_of_le_mul (by rwa [Nat.mul_comm] at h)
  · rename_i hm
    have hlt : a / b < n := by
      by_contra hc
      have : n * b ≤ a / b * b := Nat.mul_le_mul_right b (by omega)
      omega
    split <;> omega

theorem Config.kn_pos : 0 < Config.kn := Config.params.kn_pos
theorem Config.kd_pos : 0 < Config.kd := Config.params.kd_pos

/-- `RND` is monotone (R8). -/
theorem Config.rnd_mono (a b c d : Nat) (hb : 0 < b) (hd : 0 < d) (h : a * d ≤ c * b) :
    Config.rnd a b ≤ Config.rnd c d := Config.params.round_mono a b c d hb hd h

/-- The largest voltage fits 16 bits (log 9). -/
theorem Config.volt_fits : Config.rnd (255 * Config.kn) Config.kd < 65536 := Config.params.volt_fits

namespace Machine

/-- The Celsius value is at most 194 (R97). -/
theorem celsius_le (acc : Nat) : celsius Config.rnd Config.kn Config.kd acc ≤ 194 := by
  unfold celsius
  split
  · omega
  · refine roundWith_le_ceil _ _ _ _ ?_
    have : 263700 * Config.kd - acc * Config.kn ≤ 263700 * Config.kd := Nat.sub_le _ _
    omega

/-- The voltage of a sum of 20 samples is at most that of 20 full samples (R97). -/
theorem millivolts_le (acc : Nat) (h : acc ≤ 5100) :
    millivolts Config.rnd Config.kn Config.kd acc ≤ Config.rnd (255 * Config.kn) Config.kd := by
  have hk := Config.kd_pos
  refine Config.rnd_mono _ _ _ _ (by omega) hk ?_
  calc acc * Config.kn * Config.kd ≤ 5100 * Config.kn * Config.kd :=
        Nat.mul_le_mul_right _ (Nat.mul_le_mul_right _ h)
    _ = 255 * Config.kn * (20 * Config.kd) := by ring

theorem sampleSum_le (l : List Byte) : sampleSum l ≤ 255 * l.length := by
  induction l with
  | nil => simp [sampleSum]
  | cons x l ih =>
    have hx : x.toNat ≤ 255 := by have := x.isLt; omega
    simp only [sampleSum, List.map_cons, List.sum_cons, List.length_cons] at ih ⊢
    omega

theorem Env.samples_length (ch : Channel) (n : Nat) (e : Env) : (Env.samples ch n e).1.length = n := by
  induction n generalizing e with
  | zero => rfl
  | succ n ih => simp [Env.samples, ih]

/-- `n` acquisitions in closed form. -/
theorem State.acquireMore_eq (ch : Channel) (n : Nat) (s : State) :
    State.acquireMore ch n s =
      { s with
        acc := s.acc + BitVec.ofNat 16 (sampleSum (s.env.samples ch n).1)
        ns := s.ns - BitVec.ofNat 7 n
        env := (s.env.samples ch n).2
        port := { s.port with
          trace := ((s.env.samples ch n).1.map (Event.adcRead ch)).reverse ++ s.port.trace } } := by
  induction n generalizing s with
  | zero => simp [State.acquireMore, Env.samples, sampleSum]
  | succ n ih =>
    simp only [State.acquireMore, ih, Env.samples]
    have e1 : s.acc + (s.env.sample ch).1.setWidth 16 +
        BitVec.ofNat 16 (sampleSum (Env.samples ch n (s.env.sample ch).2).1) =
        s.acc + BitVec.ofNat 16 (sampleSum ((s.env.sample ch).1 :: (Env.samples ch n (s.env.sample ch).2).1)) := by
      apply BitVec.eq_of_toNat_eq
      simp only [sampleSum, List.map_cons, List.sum_cons, BitVec.toNat_add, BitVec.toNat_ofNat,
        BitVec.toNat_setWidth]
      omega
    have e2 : s.ns - 1 - BitVec.ofNat 7 n = s.ns - BitVec.ofNat 7 (n + 1) := by
      have h1 : (1 : BitVec 7) = BitVec.ofNat 7 1 := rfl
      rw [h1]
      apply BitVec.eq_of_toNat_eq
      simp only [BitVec.toNat_sub, BitVec.toNat_ofNat]
      omega
    simp only [State.acquireOne_acc, State.acquireOne_ns, State.acquireOne_env, State.acquireOne_port, e1, e2]
    simp [State.acquireOne, State.emit, State.onPort]

/-- A block of acquisitions in closed form (R92, R93). -/
theorem State.acquire_eq (ch : Channel) (n : Nat) (s : State) :
    s.acquire ch n =
      { s with
        acc := BitVec.ofNat 16 (sampleSum (s.env.samples ch n).1)
        ns := 0
        env := (s.env.samples ch n).2
        port := { s.port with
          trace := ((s.env.samples ch n).1.map (Event.adcRead ch)).reverse ++ s.port.trace } } := by
  simp [State.acquire, State.acquireMore_eq]

/-- The sum of a temperature block does not wrap (R24, R92). -/
theorem tempSum_lt (e : Env) : sampleSum (e.samples .temp 100).1 ≤ 25500 := by
  have := sampleSum_le (e.samples .temp 100).1
  rw [Env.samples_length] at this; omega

/-- The sum of a voltage block does not wrap (R93). -/
theorem voltSum_lt (e : Env) : sampleSum (e.samples .volt 20).1 ≤ 5100 := by
  have := sampleSum_le (e.samples .volt 20).1
  rw [Env.samples_length] at this; omega

/-- `RDTEMP` in closed form (R92). -/
theorem State.readTemperature_eq (s : State) :
    s.readTemperature =
      { s with
        t := BitVec.ofNat 8 (celsius Config.rnd Config.kn Config.kd (sampleSum (s.env.samples .temp 100).1))
        written := { s.written with t := true }
        acc := BitVec.ofNat 16 (sampleSum (s.env.samples .temp 100).1)
        ns := 0
        env := (s.env.samples .temp 100).2
        port := { s.port with
          trace := ((s.env.samples .temp 100).1.map (Event.adcRead .temp)).reverse ++ s.port.trace } } := by
  have h := tempSum_lt s.env
  have hm : sampleSum (s.env.samples .temp 100).1 % 65536 = sampleSum (s.env.samples .temp 100).1 :=
    Nat.mod_eq_of_lt (by omega)
  simp [State.readTemperature, State.acquire_eq, Config.nTemp, hm]

/-- `RDVOLT` in closed form (R93). -/
theorem State.readVoltage_eq (s : State) :
    s.readVoltage =
      { s with
        v := BitVec.ofNat 16 (millivolts Config.rnd Config.kn Config.kd (sampleSum (s.env.samples .volt 20).1))
        written := { s.written with v := true }
        acc := BitVec.ofNat 16 (sampleSum (s.env.samples .volt 20).1)
        ns := 0
        env := (s.env.samples .volt 20).2
        port := { s.port with
          trace := ((s.env.samples .volt 20).1.map (Event.adcRead .volt)).reverse ++ s.port.trace } } := by
  have h := voltSum_lt s.env
  have hm : sampleSum (s.env.samples .volt 20).1 % 65536 = sampleSum (s.env.samples .volt 20).1 :=
    Nat.mod_eq_of_lt (by omega)
  simp [State.readVoltage, State.acquire_eq, Config.nVolt, hm]

/-- Polling leaves the persistent store alone. -/
@[simp] theorem Env.sample_cfg (ch : Channel) (e : Env) : (e.sample ch).2.cfg = e.cfg := by
  unfold Env.sample; cases ch <;> dsimp only <;> split <;> rfl

@[simp] theorem Env.buttons_cfg (e : Env) : e.buttons.2.cfg = e.cfg := by unfold Env.buttons; split <;> rfl

@[simp] theorem Env.mode_cfg (e : Env) : e.mode.2.cfg = e.cfg := by unfold Env.mode; split <;> rfl

@[simp] theorem Env.samples_cfg (ch : Channel) (n : Nat) (e : Env) : (e.samples ch n).2.cfg = e.cfg := by
  induction n generalizing e with
  | zero => rfl
  | succ n ih => simp [Env.samples, ih]

/-- Queued answers are given first, in order (00_scope.md R12, log 2). -/
theorem Env.samples_temp_queued (l rest : List Byte) (e : Env) :
    Env.samples .temp l.length { e with tempIn := l ++ rest } = (l, { e with tempIn := rest }) := by
  induction l with
  | nil => rfl
  | cons x l ih => simp only [List.length_cons, Env.samples, Env.sample, List.cons_append, ih]

theorem Env.samples_volt_queued (l rest : List Byte) (e : Env) :
    Env.samples .volt l.length { e with voltIn := l ++ rest } = (l, { e with voltIn := rest }) := by
  induction l with
  | nil => rfl
  | cons x l ih => simp only [List.length_cons, Env.samples, Env.sample, List.cons_append, ih]

end Machine

end Sys2Proof
end

