-- ==== Sys2Proof/Laws/Ops.lean ====
section
/-! SUPPORT. What each shared operation of the sequencer can do (44_phases.md R140, R141). -/

namespace Sys2Proof.Machine

@[simp] theorem andThen_next (s : State) (k : State → Result) : andThen (.next s) k = k s := rfl
@[simp] theorem andThen_fault (f : Fault) (k : State → Result) : andThen (.fault f) k = .fault f := rfl
@[simp] theorem andThen_refused (r : Refusal) (k : State → Result) : andThen (.refused r) k = .refused r := rfl

/-- A sequence answers a next state only through one of its first part. -/
theorem andThen_eq_next {r : Result} {k : State → Result} {t : State} (h : andThen r k = .next t) :
    ∃ s, r = .next s ∧ k s = .next t := by
  cases r with
  | next s => exact ⟨s, rfl, h⟩
  | fault f => simp [andThen] at h
  | refused q => simp [andThen] at h

/-- Completion moves `PC` on, and nothing else but the part of the operation (45_modes.md R168). -/
theorem completeOp_next {s t : State} (h : completeOp s = .next t) :
    s.pc ≠ 31#5 ∧ t = { s with pc := s.pc + 1, entered := false } := by
  unfold completeOp at h
  split at h
  · cases h
  · rename_i hp; cases h; exact ⟨hp, rfl⟩

theorem completeOp_of_lt (s : State) (h : s.pc ≠ 31#5) :
    completeOp s = .next { s with pc := s.pc + 1, entered := false } := by simp [completeOp, h]

/-- A register that has been written is read as it stands. -/
@[simp] theorem asItStands_written {w : Nat} (x : BitVec w) : asItStands true x = some x := rfl

/-- A register that has not been written is not read (10_state.md R40(d)). -/
@[simp] theorem asItStands_unwritten {w : Nat} (x : BitVec w) : asItStands false x = none := rfl

/-- What stands of a register depends on its value only where it has been written (R40(d)). -/
theorem asItStands_congr {w : Nat} {b : Bool} {x y : BitVec w} (h : b = true → x = y) :
    asItStands b x = asItStands b y := by
  cases b
  · rfl
  · rw [h rfl]

/-- The state after the poll of a tick (44_phases.md R150). -/
def polled (op : PhaseOp) (ra : Option (Fin 5)) (s : State) : State := (rendered op ra s).pollInputs.2

/-- Rendering and polling always go on (R141). -/
theorem renderAndPoll_eq (op : PhaseOp) (ra : Option (Fin 5)) (s : State) (k : Buttons → State → Result) :
    renderAndPoll op ra s k = k s.env.buttons.1 (polled op ra s) := by
  unfold renderAndPoll
  rw [render_eq]
  rfl

/-- Rendering and polling change the port and the environment only. -/
theorem polled_eq (op : PhaseOp) (ra : Option (Fin 5)) (s : State) :
    polled op ra s =
      { s with
        port := (rendered op ra s).port.emit (.pollInputs s.env.buttons.1), env := s.env.buttons.2 } := rfl

/-- The trace after rendering and polling (R141). -/
theorem polled_trace (op : PhaseOp) (ra : Option (Fin 5)) (s : State) :
    (polled op ra s).port.trace =
      (renderEvents (renderContext op ra s) ++ [Event.pollInputs s.env.buttons.1]).reverse ++ s.port.trace := by
  simp [polled_eq, rendered_trace]

/-- Rendering and polling leave an idle link idle (R125). -/
theorem polled_idle (op : PhaseOp) (ra : Option (Fin 5)) (s : State) (hp : s.port.idle = true) :
    (polled op ra s).port.idle = true := (rendered_sent op ra s hp).idle

/-- Rendering and polling, in one equation. -/
theorem polled_split (op : PhaseOp) (ra : Option (Fin 5)) (s : State) :
    ∃ q : Port, polled op ra s = { s with port := q, env := s.env.buttons.2 } ∧
      (s.port.idle = true → q.idle = true) ∧
      q.trace = (renderEvents (renderContext op ra s) ++ [Event.pollInputs s.env.buttons.1]).reverse ++ s.port.trace :=
  ⟨(polled op ra s).port, rfl, polled_idle op ra s, polled_trace op ra s⟩

/-- The readings and the decision of a control tick (R141). -/
theorem State.measure_eq (s : State) :
    s.measure =
      { s with
        t := tickT s
        v := tickV s
        written := tickWritten s
        acc := tickSum s
        ns := 0
        dec := bangBang (tickT s) s.tgt (tickV s)
        env := tickEnv s
        port := { s.port with trace := (tickReadEvents s).reverse ++ s.port.trace } } := by
  simp [State.measure, State.decideHeat, State.readVoltage_eq, State.readTemperature_eq, tickT, tickV, tickSum, tickEnv,
    tickWritten, tickReadEvents, tempEvents, tempOf, voltOf, celsius, millivolts]

/-- A control tick: the trap, or the drive, the render list, the poll and then `k` (R141). -/
theorem controlTick_eq (op : PhaseOp) (s : State) (k : Buttons → State → Result) :
    controlTick op s k =
      if (tickV s).toNat < 2000 then .next (raiseUndervoltage { s.measure with tr := .fault })
      else k (tickEnv s).buttons.1 (polled op none s.measure.driveHeater) := by
  unfold controlTick
  rw [renderAndPoll_eq]
  have hd : s.measure.dec = bangBang (tickT s) s.tgt (tickV s) := by rw [State.measure_eq]
  have he : s.measure.driveHeater.env = tickEnv s := by rw [State.driveHeater_env, State.measure_eq]
  rw [hd, he]
  by_cases hv : (tickV s).toNat < 2000
  · simp [bangBang, Config.minMv, hv]
  · by_cases ht : (tickT s).toNat < s.tgt.toNat <;> simp [bangBang, Config.minMv, hv, ht]

/-- Where the supply is good, the drive sets the heater by one threshold (41_actuator.md R100, R104). -/
theorem measure_drive (s : State) (hv : ¬ (tickV s).toNat < 2000) :
    (s.measure.dec == .energize) = decide ((tickT s).toNat < s.tgt.toNat) := by
  rw [State.measure_eq]
  by_cases ht : (tickT s).toNat < s.tgt.toNat <;> simp [bangBang, Config.minMv, hv, ht]

/-- The state after the drive of a control tick on a good supply (R141). -/
theorem driven_eq (s : State) (hv : ¬ (tickV s).toNat < 2000) :
    s.measure.driveHeater =
      { s with
        t := tickT s
        v := tickV s
        written := tickWritten s
        acc := tickSum s
        ns := 0
        dec := if (tickT s).toNat < s.tgt.toNat then .energize else .deEnergize
        heater := decide ((tickT s).toNat < s.tgt.toNat)
        env := tickEnv s
        port := { s.port with
          trace := .heaterSet (decide ((tickT s).toNat < s.tgt.toNat)) ::
            ((tickReadEvents s).reverse ++ s.port.trace) } } := by
  have h1 := measure_drive s hv
  unfold State.driveHeater State.setHeater
  rw [h1, State.measure_eq]
  simp [State.emit, State.onPort, Port.emit, bangBang, hv, Config.minMv]

/-- A temperature reading in the terms of Safety. -/
theorem State.readTemperature_tick (s : State) :
    s.readTemperature =
      { s with
        t := tickT s
        written := { s.written with t := true }
        acc := BitVec.ofNat 16 (sampleSum (s.env.samples .temp 100).1)
        ns := 0
        env := (s.env.samples .temp 100).2
        port := { s.port with trace := (tempEvents s).reverse ++ s.port.trace } } := by
  rw [State.readTemperature_eq]; rfl

theorem tickT_le (s : State) : (tickT s).toNat ≤ 194 := by
  have h := celsius_le (sampleSum (s.env.samples .temp 100).1)
  have e : tempOf (s.env.samples .temp 100).1 =
      celsius Config.rnd Config.kn Config.kd (sampleSum (s.env.samples .temp 100).1) := rfl
  unfold tickT
  rw [e, BitVec.toNat_ofNat]
  omega

theorem tickV_le (s : State) : (tickV s).toNat ≤ Config.rnd (255 * Config.kn) Config.kd := by
  have h := millivolts_le _ (voltSum_lt (s.env.samples .temp 100).2)
  have e : voltOf ((s.env.samples .temp 100).2.samples .volt 20).1 =
      millivolts Config.rnd Config.kn Config.kd (sampleSum ((s.env.samples .temp 100).2.samples .volt 20).1) := rfl
  unfold tickV
  rw [e, BitVec.toNat_ofNat]
  omega

/-- The end of a tick, in its two cases. -/
theorem endTick_true (s : State) : endTick true s = phaseCompletes s := rfl
theorem endTick_false (s : State) : endTick false s = waitTick s := rfl

/-- A poll of the editor keeps a set point in its range (44_phases.md R146, U15). -/
theorem editValue_inRange (i : Fin 5) (b : Buttons) (x : Byte) (h : spInRange i x) : spInRange i (editValue i b x) := by
  revert h
  unfold spInRange editValue
  generalize hlo : (Config.spMin i).toNat = lo
  generalize hhi : (Config.spMax i).toNat = hi
  have hb : hi ≤ 255 := by have := (Config.spMax i).isLt; omega
  have up : ∀ y : Byte, y.toNat < hi → (y + 1).toNat = y.toNat + 1 := fun y hy => by
    have h1 : (1 : Byte).toNat = 1 := rfl
    rw [BitVec.toNat_add, h1]; omega
  have down : ∀ y : Byte, lo < y.toNat → (y - 1).toNat = y.toNat - 1 := fun y hy => by
    have h1 : (1 : Byte).toNat = 1 := rfl
    rw [BitVec.toNat_sub, h1]; have := y.isLt; omega
  intro h
  dsimp only
  by_cases hi1 : b.inc = true ∧ x.toNat < hi
  · have hx := up x hi1.2
    rw [if_pos hi1]
    by_cases hd : b.dec = true ∧ lo < (x + 1).toNat
    · rw [if_pos hd, down _ hd.2]; omega
    · rw [if_neg hd]; omega
  · rw [if_neg hi1]
    by_cases hd : b.dec = true ∧ lo < x.toNat
    · rw [if_pos hd, down _ hd.2]; omega
    · rw [if_neg hd]; omega

/-- A loaded set point is in its range, whatever byte the store held (44_phases.md R147). -/
theorem validated_inRange (i : Fin 5) (b : Byte) : spInRange i (validated i b) := by
  unfold validated spInRange
  split
  · assumption
  · exact Config.params.spDef_range i

end Sys2Proof.Machine
end

