-- ==== Sys2Proof/Laws/PerInstr.lean ====
section
/-! SUPPORT. Statements about every instruction as syntax: its code has the fixed bits of its row of
spec/opcode_table.json. -/

namespace Sys2Proof.Laws.TableRow

/-- The row's `mask` (spec/opcode_table.json); 0 for a row that fixes no bit. -/
def rowMask : Instr → Nat
  | .setcur _ _ => 0xF880
  | .putch _ => 0xFF00
  | .clear | .dinit | .rdtemp | .rdvolt | .decideOp | .cool | .faultw | .endOp | .drive => 0xFFFF
  | .edit _ | .loadsp _ => 0xF8FF
  | .heat _ _ => 0xF0FF
  | .hold _ _ => 0xF8F8
  | .cmdPage _ => 0xF8
  | .cmdColh _ | .cmdColl _ => 0xF0
  | .hdr _ _ | .data _ | .txbit _ => 0
  | .txbyte _ => 1

/-- The row's `match` (spec/opcode_table.json). -/
def rowMatch : Instr → Nat
  | .setcur _ _ => 0x1000
  | .putch _ => 0x2000
  | .clear => 0x3000
  | .dinit => 0x4000
  | .rdtemp => 0x5000
  | .rdvolt => 0x6000
  | .decideOp => 0x7000
  | .edit _ => 0x8000
  | .heat _ _ => 0x9000
  | .hold _ _ => 0xA000
  | .cool => 0xB000
  | .faultw => 0xC000
  | .endOp => 0xD000
  | .loadsp _ => 0xE000
  | .drive => 0xF000
  | .cmdPage _ => 0xB0
  | .cmdColh _ => 0x10
  | .cmdColl _ => 0x00
  | .hdr _ _ | .data _ | .txbit _ => 0
  | .txbyte _ => 1

/-- The bits of a code as a number, numbered as the table numbers them. -/
def codeBits : Code → Nat
  | .op w => w.toNat
  | .link (.byte _ b) => b.toNat
  | .link (.pulse b) => b.toNat
  | .link (.frame p) => p.toNat

/-- The code of a well-formed instruction agrees with its row wherever the row fixes a bit. -/
def Statement (i : Instr) : Prop := i.wellFormed = true → codeBits (encode i) &&& rowMask i = rowMatch i

theorem setcur (row : BitVec 3) (col : Byte) : Statement (.setcur row col) := by
  revert row col; unfold Statement; decide +kernel
theorem putch (c : Byte) : Statement (.putch c) := by revert c; unfold Statement; decide +kernel
theorem clear : Statement .clear := by unfold Statement; decide
theorem dinit : Statement .dinit := by unfold Statement; decide
theorem rdtemp : Statement .rdtemp := by unfold Statement; decide
theorem rdvolt : Statement .rdvolt := by unfold Statement; decide
theorem decideOp : Statement .decideOp := by unfold Statement; decide
theorem edit (ra : BitVec 3) : Statement (.edit ra) := by revert ra; unfold Statement; decide
theorem heat (stop : Bool) (ra : BitVec 3) : Statement (.heat stop ra) := by revert stop ra; unfold Statement; decide
theorem hold (ra rb : BitVec 3) : Statement (.hold ra rb) := by revert ra rb; unfold Statement; decide +kernel
theorem cool : Statement .cool := by unfold Statement; decide
theorem faultw : Statement .faultw := by unfold Statement; decide
theorem endOp : Statement .endOp := by unfold Statement; decide
theorem loadsp (ra : BitVec 3) : Statement (.loadsp ra) := by revert ra; unfold Statement; decide
theorem drive : Statement .drive := by unfold Statement; decide
theorem hdr (addr : BitVec 7) (stream : Bool) : Statement (.hdr addr stream) := fun _ => Nat.and_zero _
theorem cmdPage (row : BitVec 3) : Statement (.cmdPage row) := by revert row; unfold Statement; decide
theorem cmdColh (high : BitVec 4) : Statement (.cmdColh high) := by revert high; unfold Statement; decide
theorem cmdColl (low : BitVec 4) : Statement (.cmdColl low) := by revert low; unfold Statement; decide
theorem data (d : Byte) : Statement (.data d) := fun _ => Nat.and_zero _
theorem txbit (b : Bool) : Statement (.txbit b) := fun _ => Nat.and_zero _
theorem txbyte (v : Byte) : Statement (.txbyte v) := by revert v; unfold Statement; decide +kernel

end Sys2Proof.Laws.TableRow
end

