-- ==== Sys2Proof/Laws/Phases.lean ====
section
/-! SUPPORT. Everything that the operations with ticks can do: each either runs its entry, or takes the trap, or runs one
tick to its end (44_phases.md R140 to R154). -/

namespace Sys2Proof.Machine

theorem next_inj {s t : State} (h : (Host.Outcome.next s : Result) = .next t) : t = s := by
  injection h with h; exact h.symm

theorem setPointIndex_of {ra : BitVec 3} {i : Fin 5} (h : ra.toNat = i.val) : setPointIndex ra = some i := by
  simp [setPointIndex, h]

theorem targetIndex_of {ra : BitVec 3} {i : Fin 5} (h : ra.toNat = i.val) (h2 : i.val ≤ 2) :
    targetIndex ra = some i := by simp [targetIndex, h, h2]

theorem durationIndex_of {rb : BitVec 3} {j : Fin 5} (h : rb.toNat = j.val) (h3 : 3 ≤ j.val) :
    durationIndex rb = some j := by
  have := j.isLt
  simp [durationIndex, h, show j.val = 3 ∨ j.val = 4 by omega]

theorem setPointIndex_eq {ra : BitVec 3} {i : Fin 5} (h : setPointIndex ra = some i) : ra.toNat = i.val := by
  simp only [setPointIndex] at h
  split at h
  · cases h; rfl
  · cases h

theorem targetIndex_eq {ra : BitVec 3} {i : Fin 5} (h : targetIndex ra = some i) : ra.toNat = i.val ∧ i.val ≤ 2 := by
  simp only [targetIndex] at h
  split at h
  · cases h; exact ⟨rfl, ‹_›⟩
  · cases h

theorem durationIndex_eq {rb : BitVec 3} {j : Fin 5} (h : durationIndex rb = some j) :
    rb.toNat = j.val ∧ 3 ≤ j.val := by
  simp only [durationIndex] at h
  split at h
  · cases h; refine ⟨rfl, ?_⟩; simp only; omega
  · cases h

/-- The state at the end of a tick that has drawn and polled: `done` says whether the phase is over. -/
def tickEnd (done : Bool) (s : State) (q : Port) : State :=
  { s with
    tr := if done then .phaseComplete else .continue
    first := false, entered := !done, pc := if done then s.pc + 1 else s.pc, port := q }

/-- A phase that ends (R140). -/
theorem phaseCompletes_next {s t : State} (h : phaseCompletes s = .next t) :
    s.pc ≠ 31#5 ∧ t = tickEnd true s s.port := by
  obtain ⟨h1, rfl⟩ := completeOp_next h
  exact ⟨h1, rfl⟩

theorem phaseCompletes_of (s : State) (h : s.pc ≠ 31#5) : phaseCompletes s = .next (tickEnd true s s.port) := by
  simp [phaseCompletes, completeOp, h, tickEnd]

/-- A tick that goes on (R140, R151). -/
theorem waitTick_eq (s : State) (he : s.entered = true) :
    waitTick s = .next (tickEnd false s (s.port.emit .delayTick)) := by
  simp [waitTick, tickContinues, tickEnd, State.emit, State.onPort, he]

/-- The end of a tick (R142, R144, R145). -/
theorem endTick_next {done : Bool} {s t : State} (he : s.entered = true) (h : endTick done s = .next t) :
    (done = true → s.pc ≠ 31#5) ∧ t = tickEnd done s (if done then s.port else s.port.emit .delayTick) := by
  cases done
  · rw [endTick_false, waitTick_eq s he] at h; cases h; exact ⟨by simp, rfl⟩
  · have := phaseCompletes_next (endTick_true s ▸ h); simpa using this

theorem endTick_of (done : Bool) (s : State) (he : s.entered = true) (h : s.pc ≠ 31#5) :
    endTick done s = .next (tickEnd done s (if done then s.port else s.port.emit .delayTick)) := by
  cases done
  · rw [endTick_false, waitTick_eq s he]; rfl
  · rw [endTick_true, phaseCompletes_of s h]; rfl

/-- The trap of a control tick, in one record (60_exceptions.md R186). -/
theorem trap_eq (s : State) (hv : (tickV s).toNat < 2000) :
    raiseUndervoltage { s.measure with tr := .fault } =
      { s with
        t := tickT s, v := tickV s, written := tickWritten s, acc := tickSum s, ns := 0, dec := .fault, heater := false, env := tickEnv s
        tr := .fault, pc := 0x07, first := true, entered := true
        port := { s.port with trace := .heaterSet false :: ((tickReadEvents s).reverse ++ s.port.trace) } } := by
  simp [raiseUndervoltage, State.measure_eq, State.setHeater, State.emit, State.onPort, Port.emit, faultVector, bangBang,
    Config.minMv, hv]

/-- The state of a control tick on a good supply after the drive, the render list and the poll, with port `q`. -/
def tickBody (s : State) (q : Port) : State :=
  { s with
    t := tickT s, v := tickV s, written := tickWritten s, acc := tickSum s, ns := 0
    dec := if (tickT s).toNat < s.tgt.toNat then .energize else .deEnergize
    heater := decide ((tickT s).toNat < s.tgt.toNat), env := (tickEnv s).buttons.2, port := q }

/-- What a control tick on a good supply has emitted up to its poll (R141). -/
def tickEvents (op : PhaseOp) (s : State) : List Event :=
  tickReadEvents s ++ [.heaterSet (decide ((tickT s).toNat < s.tgt.toNat))] ++
    renderEvents ⟨op, s.first, some (tickT s), some (tickV s), asItStands s.written.tgt s.tgt,
      asItStands s.written.cnt s.cnt, none, s.sp⟩ ++
    [Event.pollInputs (tickEnv s).buttons.1]

/-- A control tick on a good supply goes on with its poll (R141). -/
theorem controlTick_good (op : PhaseOp) (s : State) (k : Buttons → State → Result) (hv : ¬ (tickV s).toNat < 2000) :
    ∃ q : Port, controlTick op s k = k (tickEnv s).buttons.1 (tickBody s q) ∧
      (s.port.idle = true → q.idle = true) ∧ q.trace = (tickEvents op s).reverse ++ s.port.trace := by
  obtain ⟨q, h1, h2, h3⟩ := polled_split op none s.measure.driveHeater
  rw [driven_eq s hv] at h1 h2 h3
  refine ⟨q, ?_, fun hp => h2 (by simpa [Port.idle] using hp), ?_⟩
  · rw [controlTick_eq, if_neg hv, driven_eq s hv, h1, tickBody]
  · rw [h3]; simp [renderContext, tickEvents, tickWritten]

/-- Whether a tick of `HEAT` ends the phase (R142). -/
def heatDone (stop : Bool) (s : State) : Bool :=
  (tickEnv s).buttons.1.sel || (stop && decide (s.tgt.toNat ≤ (tickT s).toNat))

/-- Everything `HEAT` can do (R142, R186). -/
theorem execHeat_next {stop : Bool} {ra : BitVec 3} {s t : State} (h : execHeat stop ra s = .next t) :
    ∃ i, targetIndex ra = some i ∧
      ((s.entered = false ∧ t = heatEntry i s) ∨
        (s.entered = true ∧ (tickV s).toNat < 2000 ∧ t = raiseUndervoltage { s.measure with tr := .fault }) ∨
        (s.entered = true ∧ ¬ (tickV s).toNat < 2000 ∧ (heatDone stop s = true → s.pc ≠ 31#5) ∧
          ∃ q : Port, t = tickEnd (heatDone stop s) (tickBody s q) q ∧ (s.port.idle = true → q.idle = true) ∧
            q.trace = (if heatDone stop s then [] else [Event.delayTick]) ++ (tickEvents .heat s).reverse ++
              s.port.trace)) := by
  unfold execHeat at h
  split at h
  · cases h
  · rename_i i hi
    refine ⟨i, hi, ?_⟩
    split at h
    · rename_i he
      by_cases hv : (tickV s).toNat < 2000
      · rw [heatTick, controlTick_eq, if_pos hv] at h; exact .inr (.inl ⟨he, hv, next_inj h⟩)
      · obtain ⟨q, h1, h2, h3⟩ := controlTick_good .heat s
          (fun b s => endTick (b.sel || (stop && reached s.t s.tgt)) s) hv
        rw [heatTick, h1] at h
        have hd : ((tickEnv s).buttons.1.sel || (stop && reached (tickBody s q).t (tickBody s q).tgt)) =
            heatDone stop s := rfl
        rw [hd] at h
        obtain ⟨h4, h5⟩ := endTick_next (by exact he) h
        refine .inr (.inr ⟨he, hv, h4, if heatDone stop s then q else q.emit .delayTick, ?_, ?_, ?_⟩)
        · rw [h5]; simp only [tickEnd, tickBody]
        · intro hp; rw [apply_ite Port.idle]; simpa [Port.idle] using h2 hp
        · split <;> simp [h3]
    · rename_i he; cases h; exact .inl ⟨by simpa using he, rfl⟩

/-- An entered operation runs a tick (R140). -/
theorem execHeat_entered {stop : Bool} {ra : BitVec 3} {s : State} (h : ra.toNat ≤ 2) (he : s.entered = true) :
    execHeat stop ra s = heatTick stop s := by simp [execHeat, targetIndex, h, he]

theorem execHold_entered {ra rb : BitVec 3} {s : State} (h : ra.toNat ≤ 2) (hb : rb.toNat = 3 ∨ rb.toNat = 4)
    (he : s.entered = true) : execHold ra rb s = holdTick s := by
  simp [execHold, targetIndex, durationIndex, h, hb, he]

theorem execCool_entered {s : State} (he : s.entered = true) : execCool s = coolTick s := by simp [execCool, he]

/-- What is left of a `HOLD` after a tick that is not cancelled, and whether it is over (R143). -/
def holdLeft (s : State) : Byte := if (tickEnv s).buttons.1.sel then s.cnt else countDown s.cnt
def holdDone (s : State) : Bool := (tickEnv s).buttons.1.sel || holdLeft s == 0

/-- Everything `HOLD` can do (R143, R152, R186). -/
theorem execHold_next {ra rb : BitVec 3} {s t : State} (h : execHold ra rb s = .next t) :
    ∃ i j, targetIndex ra = some i ∧ durationIndex rb = some j ∧
      ((s.entered = false ∧ s.sp[j] = 0 ∧ s.pc ≠ 31#5 ∧
          t = { holdEntry i j s with pc := s.pc + 1, entered := false }) ∨
        (s.entered = false ∧ s.sp[j] ≠ 0 ∧ t = holdEntry i j s) ∨
        (s.entered = true ∧ (tickV s).toNat < 2000 ∧ t = raiseUndervoltage { s.measure with tr := .fault }) ∨
        (s.entered = true ∧ ¬ (tickV s).toNat < 2000 ∧ (holdDone s = true → s.pc ≠ 31#5) ∧
          ∃ q : Port, t = { tickEnd (holdDone s) (tickBody s q) q with cnt := holdLeft s } ∧
            (s.port.idle = true → q.idle = true) ∧
            q.trace = (if (tickEnv s).buttons.1.sel then [] else [Event.delayHold]) ++ (tickEvents .hold s).reverse ++
              s.port.trace)) := by
  unfold execHold at h
  split at h
  · rename_i i j hi hj
    refine ⟨i, j, hi, hj, ?_⟩
    split at h
    · rename_i he
      by_cases hv : (tickV s).toNat < 2000
      · rw [holdTick, controlTick_eq, if_pos hv] at h; exact .inr (.inr (.inl ⟨he, hv, next_inj h⟩))
      · obtain ⟨q, h1, h2, h3⟩ := controlTick_good .hold s (fun b s => if b.sel then phaseCompletes s else holdWait s) hv
        rw [holdTick, h1] at h
        refine .inr (.inr (.inr ⟨he, hv, ?_⟩))
        unfold holdDone holdLeft
        cases hs : (tickEnv s).buttons.1.sel
        · simp only [hs, Bool.false_eq_true, if_false, Bool.false_or] at h ⊢
          have hc : (tickBody s q).cnt = s.cnt := rfl
          unfold holdWait at h
          rw [hc] at h
          by_cases hz : countDown s.cnt = 0
          · rw [if_pos hz] at h
            obtain ⟨h4, rfl⟩ := phaseCompletes_next h
            refine ⟨fun _ => h4, q.emit .delayHold, ?_, fun hp => h2 hp, ?_⟩
            · simp [hz, tickEnd, tickBody, State.emit, State.onPort]
            · simp [h3]
          · rw [if_neg hz] at h
            rw [next_inj h]
            refine ⟨fun h => absurd (by simpa using h) hz, q.emit .delayHold, ?_, fun hp => h2 hp, ?_⟩
            · have hz' : (countDown s.cnt == 0) = false := by simpa using hz
              simp only [hz', tickEnd, tickBody, State.emit, State.onPort, tickContinues, he]
              rfl
            · simp [h3]
        · simp only [hs, if_true, Bool.true_or] at h ⊢
          obtain ⟨h4, rfl⟩ := phaseCompletes_next h
          exact ⟨fun _ => h4, q, by simp only [tickEnd, tickBody], h2, by simp [h3]⟩
    · rename_i he
      have he : s.entered = false := by simpa using he
      split at h
      · rename_i hz; obtain ⟨h4, rfl⟩ := completeOp_next h; exact .inl ⟨he, hz, h4, rfl⟩
      · rename_i hz; cases h; exact .inr (.inl ⟨he, hz, rfl⟩)
  · cases h

/-- Everything `COOL` can do (R144, R153). -/
theorem execCool_next {s t : State} (h : execCool s = .next t) :
    (s.entered = false ∧ t = coolEntry s) ∨
      (s.entered = true ∧ ∃ done, done = (s.env.samples .temp 100).2.buttons.1.sel ∧ (done = true → s.pc ≠ 31#5) ∧
        ∃ q : Port,
          t = tickEnd done
            { s with
              t := tickT s, written := { s.written with t := true }, acc := BitVec.ofNat 16 (sampleSum (s.env.samples .temp 100).1), ns := 0
              env := (s.env.samples .temp 100).2.buttons.2 } q ∧
          (s.port.idle = true → q.idle = true) ∧
          q.trace = (if done then [] else [Event.delayTick]) ++
            (tempEvents s ++ renderEvents ⟨.cool, s.first, some (tickT s), asItStands s.written.v s.v,
                asItStands s.written.tgt s.tgt, asItStands s.written.cnt s.cnt, none, s.sp⟩ ++
              [Event.pollInputs (s.env.samples .temp 100).2.buttons.1]).reverse ++ s.port.trace) := by
  unfold execCool at h
  split at h
  · rename_i he
    obtain ⟨q, h1, h2, h3⟩ := polled_split .cool none s.readTemperature
    rw [coolTick, renderAndPoll_eq, h1] at h
    rw [State.readTemperature_tick] at h h2 h3
    generalize (s.env.samples .temp 100).2 = env at *
    obtain ⟨h4, h5⟩ := endTick_next (by exact he) h
    refine .inr ⟨he, _, rfl, h4, if env.buttons.1.sel then q else q.emit .delayTick, ?_, ?_, ?_⟩
    · rw [h5]; simp only [tickEnd]
    · intro hp; rw [apply_ite Port.idle]; simpa [Port.idle] using h2 (by simpa [Port.idle] using hp)
    · split <;> simp [h3, renderContext]
  · rename_i he; cases h; exact .inl ⟨by simpa using he, rfl⟩

/-- Everything `FAULTW` can do (R145). -/
theorem execFaultw_next {s t : State} (h : execFaultw s = .next t) :
    (s.entered = false ∧ t = markEntered s) ∨
      (s.entered = true ∧ ∃ done, done = s.env.buttons.1.sel ∧ (done = true → s.pc ≠ 31#5) ∧
        ∃ q : Port, t = tickEnd done { s with env := s.env.buttons.2 } q ∧ (s.port.idle = true → q.idle = true) ∧
          q.trace = (if done then [] else [Event.delayTick]) ++
            (renderEvents (renderContext .faultw none s) ++
              [Event.pollInputs s.env.buttons.1]).reverse ++ s.port.trace) := by
  unfold execFaultw at h
  split at h
  · rename_i he
    obtain ⟨q, h1, h2, h3⟩ := polled_split .faultw none s
    rw [faultTick, renderAndPoll_eq, h1] at h
    obtain ⟨h4, h5⟩ := endTick_next (by exact he) h
    refine .inr ⟨he, _, rfl, h4, if s.env.buttons.1.sel then q else q.emit .delayTick, ?_, ?_, ?_⟩
    · rw [h5]; rfl
    · intro hp; rw [apply_ite Port.idle]; simpa [Port.idle] using h2 (by simpa [Port.idle] using hp)
    · split <;> simp [h3, renderContext]
  · rename_i he; cases h; exact .inl ⟨by simpa using he, rfl⟩

/-- Everything `EDIT` can do (R146). -/
theorem execEdit_next {ra : BitVec 3} {s t : State} (h : execEdit ra s = .next t) :
    ∃ i, setPointIndex ra = some i ∧
      ((s.entered = false ∧ t = markEntered s) ∨
        (s.entered = true ∧ ∃ x : Byte, x = editValue i s.env.buttons.1 s.sp[i] ∧
          ∃ done, done = s.env.buttons.1.sel ∧ (done = true → s.pc ≠ 31#5) ∧
            ∃ (q : Port) (m : Memory),
              t = tickEnd done { s with sp := s.sp.set i x, env := { s.env.buttons.2 with cfg := m } } q ∧
              m = (if done then s.env.cfg.write i x else s.env.cfg) ∧ (s.port.idle = true → q.idle = true) ∧
              q.trace = (if done then [Event.cfgStore i.val x] else [Event.delayTick]) ++
                (renderEvents (renderContext .edit (some i) s) ++
                  [Event.pollInputs s.env.buttons.1]).reverse ++ s.port.trace)) := by
  unfold execEdit at h
  split at h
  · cases h
  · rename_i i hi
    refine ⟨i, hi, ?_⟩
    split at h
    · rename_i he
      obtain ⟨q, h1, h2, h3⟩ := polled_split .edit (some i) s
      rw [editTick, renderAndPoll_eq, h1] at h
      refine .inr ⟨he, _, rfl, _, rfl, ?_⟩
      have hc : s.env.buttons.2.cfg = s.env.cfg := Env.buttons_cfg _
      dsimp only at h
      generalize editValue i s.env.buttons.1 s.sp[i] = x at h ⊢
      unfold editPoll at h
      cases hs : s.env.buttons.1.sel
      · rw [hs, if_neg (by decide), waitTick_eq _ (by exact he)] at h
        cases h
        refine ⟨by simp, q.emit .delayTick, s.env.cfg, ?_, rfl, fun hp => h2 hp, ?_⟩
        · simp only [← hc]; rfl
        · simp [h3]
      · rw [hs, if_pos rfl] at h
        obtain ⟨h4, rfl⟩ := phaseCompletes_next h
        refine ⟨fun _ => h4, q.emit (.cfgStore i.val x), s.env.cfg.write i x, ?_, rfl, fun hp => h2 hp, ?_⟩
        · simp only [← hc, State.cfgStore, State.setSp, State.emit, State.onPort, tickEnd, Fin.getElem_fin,
            Vector.getElem_set_self]
        · simp [h3]
    · rename_i he; cases h; exact .inl ⟨by simpa using he, rfl⟩

end Sys2Proof.Machine
end

