-- ==== Sys2Proof/Tests/Slice0.lean ====
section
/-! SUPPORT. The author's own tests. Expected values are those of spec/95_test_vectors.md (named at each test) or are worked
out by hand from the rule named; none is the model's own answer. The witnesses show that the hypotheses of each obligation
can be met, at the boundaries of their ranges. -/

namespace Sys2Proof.Tests

open Sys2Proof.Machine

/-! ### WellFormed: an ill-formed term for each check (30_encoding.md R73, R74), and the boundary terms that pass -/

theorem test_ill_formed_column : (Instr.setcur 0 128).defect = some .badColumn := by decide
theorem test_ill_formed_char_low : (Instr.putch 31).defect = some .badChar := by decide
theorem test_ill_formed_char_high : (Instr.putch 127).defect = some .badChar := by decide
theorem test_ill_formed_edit : (Instr.edit 5).defect = some .illegalOp := by decide
theorem test_ill_formed_loadsp : (Instr.loadsp 5).defect = some .illegalOp := by decide
theorem test_ill_formed_heat : (Instr.heat true 3).defect = some .illegalOp := by decide
theorem test_ill_formed_hold_target : (Instr.hold 3 3).defect = some .illegalOp := by decide
theorem test_ill_formed_hold_duration : (Instr.hold 2 2).defect = some .illegalOp ∧
    (Instr.hold 2 5).defect = some .illegalOp := by decide
theorem test_well_formed_bounds :
    [Instr.setcur 7 127, .setcur 0 0, .putch 32, .putch 126, .edit 4, .loadsp 4, .heat false 2, .hold 2 4, .hold 0 3].all
      Instr.wellFormed = true := by decide

/-! ### Decode: words written out bit by bit from 30_encoding.md R71, R72, R75 to R77, R82, fields op_s_ra_imm8 -/

theorem test_decode_setcur : decodeOp 0b0001_0_111_01111111#16 = .ok (.setcur 7 127) := by decide
theorem test_decode_putch : decodeOp 0b0010_0_000_01000001#16 = .ok (.putch 65) := by decide
theorem test_decode_clear : decodeOp 0b0011_0_000_00000000#16 = .ok .clear := by decide
theorem test_decode_dinit : decodeOp 0b0100_0_000_00000000#16 = .ok .dinit := by decide
theorem test_decode_rdtemp : decodeOp 0b0101_0_000_00000000#16 = .ok .rdtemp := by decide
theorem test_decode_rdvolt : decodeOp 0b0110_0_000_00000000#16 = .ok .rdvolt := by decide
theorem test_decode_decide : decodeOp 0b0111_0_000_00000000#16 = .ok .decideOp := by decide
theorem test_decode_edit : decodeOp 0b1000_0_100_00000000#16 = .ok (.edit 4) := by decide
theorem test_decode_heat : decodeOp 0b1001_1_001_00000000#16 = .ok (.heat true 1) := by decide
theorem test_decode_hold : decodeOp 0b1010_0_010_00000100#16 = .ok (.hold 2 4) := by decide
theorem test_decode_cool : decodeOp 0b1011_0_000_00000000#16 = .ok .cool := by decide
theorem test_decode_faultw : decodeOp 0b1100_0_000_00000000#16 = .ok .faultw := by decide
theorem test_decode_end : decodeOp 0b1101_0_000_00000000#16 = .ok .endOp := by decide
theorem test_decode_loadsp : decodeOp 0b1110_0_011_00000000#16 = .ok (.loadsp 3) := by decide
theorem test_decode_drive : decodeOp 0b1111_0_000_00000000#16 = .ok .drive := by decide
theorem test_decode_hdr : decodeLink (.byte .header 0b0111100_1#8) = .ok (.hdr 0b0111100 true) := by decide
theorem test_decode_page : decodeLink (.byte .command 0b10110_101#8) = .ok (.cmdPage 5) := by decide
theorem test_decode_colh : decodeLink (.byte .command 0b0001_0111#8) = .ok (.cmdColh 7) := by decide
theorem test_decode_coll : decodeLink (.byte .command 0b0000_1100#8) = .ok (.cmdColl 12) := by decide
theorem test_decode_data : decodeLink (.byte .data 0b10110101#8) = .ok (.data 0xB5) := by decide
theorem test_decode_txbit : decodeLink (.pulse true) = .ok (.txbit true) := by decide
theorem test_decode_txbyte : decodeLink (.frame 0b01111000_1#9) = .ok (.txbyte 0x78) := by decide

/-- B7's illegal words, by name. -/
theorem test_decode_illegal :
    [0x0000#16, 0x9B00, 0xA100, 0x8500, 0x3001, 0x1880].map decodeOp =
      [.error .illegalOp, .error .illegalOp, .error .illegalOp, .error .illegalOp, .error .illegalOp,
        .error .illegalOp] := by decide

/-- B4's refused operands. -/
theorem test_decode_bad_operand :
    [0x207F#16, 0x201F, 0x1080].map decodeOp = [.error .badChar, .error .badChar, .error .badColumn] := by decide

/-- A pulse pattern whose ninth pulse is not released, and a command byte that is none of R76. -/
theorem test_decode_illegal_link :
    decodeLink (.frame 0b01111000_0#9) = .error .badFrame ∧ decodeLink (.byte .command 0x40) = .error .badCommand := by
  decide

/-! ### Sensors, B1 (with the reference scale and rounding) -/

/-- `RND = floor` (00_scope.md R9). -/
def floorRnd (a b : Nat) : Nat := roundWith (fun _ _ => false) a b

theorem test_celsius_B1 :
    [11100, 4680, 0, 25500, 13185, 13186, 13117, 13116, 5000, 5100, 11145, 4685].map (celsius floorRnd 20 1) =
      [30, 125, 193, 0, 0, 0, 1, 1, 120, 118, 30, 125] := by decide

/-- B1 under nearest rounding. -/
theorem test_celsius_B1_nearest :
    [11100, 4680, 0, 5100].map (celsius (roundWith fun a b => decide (b ≤ a % b * 2)) 20 1) = [31, 125, 194, 119] := by
  decide

theorem test_millivolts_B1 :
    [3300, 2000, 1999, 1980, 0, 5100].map (millivolts floorRnd 20 1) = [3300, 2000, 1999, 1980, 0, 5100] := by decide

/-- 80 samples of 47 and 20 of 46 (B1); 19 samples of 100 and one of 99 (B1). -/
def sampled : State :=
  { State.reset with
    env := { Env.reset with
      tempIn := List.replicate 80 47 ++ List.replicate 20 46, voltIn := List.replicate 19 100 ++ [99] } }

/-- `RDTEMP` takes 100 samples and leaves their sum (B1: 4680). -/
theorem test_rdtemp_sum :
    (match exec .rdtemp sampled with
      | .next t => some (t.acc, t.env.tempIn, t.env.voltIn.length, t.port.trace.length)
      | _ => none) = some (4680, [], 20, 100) := by decide +kernel

/-- `RDVOLT` takes 20 samples and leaves their sum (B1: 1999). -/
theorem test_rdvolt_sum :
    (match exec .rdvolt sampled with
      | .next t => some (t.acc, t.env.voltIn, t.env.tempIn.length, t.port.trace.length)
      | _ => none) = some (1999, [], 100, 20) := by decide +kernel

/-! ### Actuator, A2, A3, B2 -/

/-- `(T, TGT, V)` of A2 and A3. -/
theorem test_decide_A2_A3 :
    [((30 : Byte), (120 : Byte), (1999 : BitVec 16)), (125, 120, 1999), (0, 180, 0), (30, 120, 2000), (119, 120, 3300),
        (120, 120, 3300), (121, 120, 3300), (0, 50, 3300), (194, 180, 3300), (0, 50, 65535)].map
        (fun x => bangBang x.1 x.2.1 x.2.2) =
      [.fault, .fault, .fault, .energize, .energize, .deEnergize, .deEnergize, .energize, .deEnergize, .energize] := by
  decide

/-- `DRIVE` with an unchanged level still emits (B2). -/
theorem test_drive_emits :
    (match exec .drive { State.reset with dec := .energize, heater := true } with
      | .next t => some (t.heater, t.port.trace)
      | _ => none) = some (true, [.heaterSet true]) := by decide

/-! ### The link, B3, B4 -/

/-- The levels of data line writes of a byte, one for each pulse: B3's `TXBYTE(0x78)`. -/
theorem test_txbyte_B3 :
    (match exec (.txbyte 0x78) State.reset with
      | .next t => some t.events
      | _ => none) =
    some ([false, true, true, true, true, false, false, false, true].flatMap fun b =>
      [.wire .sda b, .wire .scl true, .wire .scl false]) := by decide

theorem test_txbit : (match exec (.txbit false) State.reset with | .next t => some (t.port.scl, t.port.sda) | _ => none) =
    some (false, false) := by decide

/-- The bytes of the five byte rows (B4: `78 B3 10 0C`, and `79 C6`). -/
theorem test_link_bytes :
    [Instr.hdr 0x3C false, .cmdPage 3, .cmdColh 1, .cmdColl 12, .hdr 0x3C true, .data 0xC6].map
        (fun i => match exec i State.reset with | .next t => some t.port.shr | _ => none) =
      [some 0x78, some 0xB3, some 0x11, some 0x0C, some 0x79, some 0xC6] := by decide

/-- `SETCUR 12, 3` sends `B3 10 0C`; `SETCUR 127, 7` sends `B7 17 0F`; `SETCUR 126, 0` sends `B0 17 0E` (B4). -/
theorem test_cursor_bytes_B4 :
    cursorBytes 3 12 = [0xB3, 0x10, 0x0C] ∧ cursorBytes 7 127 = [0xB7, 0x17, 0x0F] ∧
      cursorBytes 0 126 = [0xB0, 0x17, 0x0E] := by decide

/-- `SETCUR` emits 113 writes and leaves the link idle (B3). -/
theorem test_setcur_count :
    (match exec (.setcur 3 12) State.reset with | .next t => some (t.port.idle, t.port.trace.length) | _ => none) =
      some (true, 113) := by decide

/-- `PUTCH` emits 194 writes (B4). -/
theorem test_putch_count :
    (match exec (.putch 65) State.reset with | .next t => some (t.port.idle, t.port.trace.length) | _ => none) =
      some (true, 194) := by decide +kernel

/-- Operands without a meaning are refused (B4). -/
theorem test_display_refusals :
    exec (.putch 127) State.reset = .refused .badChar ∧ exec (.putch 31) State.reset = .refused .badChar ∧
      exec (.setcur 0 128) State.reset = .refused .badColumn := ⟨rfl, rfl, rfl⟩

/-- The glyph bytes of `A` in the reference font are `C6` to `CB`, those of `~` are `34` to `39` (B4). -/
theorem test_font_B4 :
    (List.range 6).map (Ref.font (65 - 32)) = [0xC6, 0xC7, 0xC8, 0xC9, 0xCA, 0xCB] ∧
      (List.range 6).map (Ref.font (126 - 32)) = [0x34, 0x35, 0x36, 0x37, 0x38, 0x39] := by decide

/-- `CLEAR` emits 28808 writes (B4). -/
theorem test_clear_count : clearEvents.length = 28808 := by decide +kernel

/-- `DINIT` emits one `DispInit` and moves on (B4, P1). -/
theorem test_dinit :
    (match exec .dinit State.reset with | .next t => some (t.pc, t.port.trace) | _ => none) = some (1, [.dispInit]) := by
  decide

/-! ### Phases, B5 -/

/-- `SP = (120, 100, 150, 60, 30)`, in NORMAL or CURVE at an address. -/
def atPc (pc : BitVec 5) (entered : Bool) : State :=
  { State.reset with sp := #v[120, 100, 150, 60, 30], pc := pc, entered := entered, written := ⟨true, true, true, true⟩ }

/-- The same with one poll to come. -/
def polling (pc : BitVec 5) (b : Buttons) : State :=
  { atPc pc true with env := { Env.reset with pollIn := [b] } }

theorem test_heat_entry :
    (match exec (.heat false 0) (atPc 0x11 false) with
      | .next t => some (t.tgt, t.first, t.entered, t.port.trace)
      | _ => none) = some (120, true, true, []) := by decide

/-- The trap of B6, with every voltage sample 0: whatever the scale is, `V = 0`. -/
theorem test_heat_trap_B6 (s : State) (h : s.entered = true) (hv : (tickV s).toNat < 2000) :
    ∃ t, exec (.heat false 0) s = .next t ∧ t.heater = false ∧ t.pc = 0x07 ∧ t.run = s.run ∧ t.tgt = s.tgt ∧
      t.first = true ∧ t.dec = .fault := by
  refine ⟨raiseUndervoltage { s.measure with tr := .fault }, ?_, ?_⟩
  · rw [show exec (.heat false 0) s = heatTick false s by simp [exec, execHeat, targetIndex, h], heatTick, controlTick_eq,
      if_pos hv]
  · rw [trap_eq s hv]; simp

theorem test_hold_entry :
    (match exec (.hold 1 3) (atPc 0x19 false) with
      | .next t => some (t.tgt, t.cnt, t.entered, t.pc)
      | _ => none) = some (100, 60, true, 0x19) := by decide

/-- A `HOLD` of duration 0 completes at once: `PC` goes from 0x19 to 0x1A, no event (A5). -/
theorem test_hold_zero_A5 :
    (match exec (.hold 1 3) { atPc 0x19 false with sp := #v[120, 100, 150, 0, 0], heater := true } with
      | .next t => some (t.pc, t.heater, t.port.trace)
      | _ => none) = some (0x1A, true, []) := by decide

/-- `COOL` writes the output 0 on entry, also where it is 0 already (B5). -/
theorem test_cool_entry :
    (match exec .cool (atPc 0x12 false) with | .next t => some (t.heater, t.port.trace) | _ => none) =
      some (false, [.heaterSet false]) := by decide

/-- The increment and the decrement of one poll, each with its own bound (B5's table of `EDIT SP0` and `EDIT SP3`). -/
theorem test_edit_B5 :
    [editValue 0 ⟨true, false, false⟩ 120, editValue 0 ⟨true, false, false⟩ 180, editValue 0 ⟨false, true, false⟩ 50,
        editValue 0 ⟨true, true, false⟩ 120, editValue 0 ⟨true, true, false⟩ 180, editValue 0 ⟨true, true, false⟩ 50,
        editValue 3 ⟨false, true, false⟩ 0, editValue 3 ⟨true, false, false⟩ 255] =
      [121, 180, 50, 120, 179, 50, 0, 255] := by decide

/-- Step, then confirm, in one poll: 121 is stored (B5). -/
theorem test_edit_confirm_B5 :
    (match execEdit 0 (polling 0x10 ⟨true, false, true⟩) with
      | .next t => some (t.sp[0], t.env.cfg, t.pc, t.tr)
      | _ => none) = some (121, [(0, 121)], 0x11, .phaseComplete) := by
  rw [execEdit]
  have h : setPointIndex 0 = some 0 := by decide
  simp only [h, polling, atPc, if_true, editTick, renderAndPoll_eq]
  rfl

/-- `FAULTW` polls, takes no sample, and stays without Select (B5). -/
theorem test_faultw_waits :
    (match execFaultw (polling 0x07 ⟨false, false, false⟩) with
      | .next t => some (t.pc, t.tr, t.entered, t.env.draws)
      | _ => none) = some (0x07, .continue, true, 0) := by
  rw [execFaultw]
  simp only [polling, atPc, if_true, faultTick, renderAndPoll_eq]
  rfl

/-- `LOADSP` in range, at both bounds, and of a duration (B5). -/
theorem test_loadsp_in_range_B5 :
    [validated 0 120, validated 0 50, validated 0 180, validated 3 0, validated 3 255, validated 4 77] =
      [120, 50, 180, 0, 255, 77] := by decide

/-- `LOADSP` out of range takes the default and leaves the stored byte (B5, P4). -/
theorem test_loadsp_default_B5 :
    (match exec (.loadsp 0) { State.reset with env := { Env.reset with cfg := [(0, 200)] } } with
      | .next t => some (decide (t.sp[0] = Config.spDef 0), t.env.cfg, t.port.trace)
      | _ => none) = some (true, [(0, 200)], [.cfgLoad 0 200]) := by
  simp [exec, execLoadsp, setPointIndex, completeOp, State.reset, State.cfgLoad, State.setSp, validated, Memory.read,
    cellGet, Config.spMin, Config.spMax, State.emit, State.onPort, Port.emit, Port.reset, Env.reset]

/-- `END` clears `RUN` and leaves `PC` (P1: 0x13). -/
theorem test_end : (match exec .endOp (atPc 0x13 false) with | .next t => some (t.run, t.pc) | _ => none) =
    some (false, 0x13) := by decide

/-! ### The step -/

/-- From reset: `DINIT` at 0x00, then `LOADSP SP0` is next (P1). -/
theorem test_step_from_reset :
    (match step State.reset with | .next t => some (t.pc, t.port.trace, t.run) | _ => none) =
      some (1, [.dispInit], true) := by decide

/-- Idle: `PollMode` answers Normal, and the editor of NORMAL is entered (P1). -/
theorem test_step_idle :
    (match step { atPc 0x06 false with run := false, env := { Env.reset with modeIn := [.normal] } } with
      | .next t => some (t.pc, t.run, t.entered, t.port.trace)
      | _ => none) = some (0x10, true, true, [.pollMode .normal]) := by decide

/-- `END` of the pipeline, then Idle (P1). -/
theorem test_step_end :
    (match step (atPc 0x13 false) with | .next t => some (t.phase, t.run, t.pc) | _ => none) =
      some (.idle, false, 0x13) := by decide

/-- The phase shown at each address of the fault handler and of NORMAL (10_state.md R30). -/
theorem test_phase_view :
    [0x07#5, 0x08, 0x10, 0x11, 0x12, 0x13, 0x19].map (fun pc => (atPc pc true).phase) =
      [.fault, .idle, .idle, .heat, .cool, .idle, .hold] := by decide

/-- The codes of the enumerations (30_encoding.md R78, 60_exceptions.md R180). -/
theorem test_codes :
    [Decision.deEnergize, .energize, .fault].map Decision.code = [0, 1, 2] ∧
      [TickResult.continue, .phaseComplete, .fault].map TickResult.code = [0, 1, 2] ∧
      [Phase.idle, .heat, .hold, .cool, .fault].map Phase.code = [0, 1, 2, 3, 4] ∧
      [ModeRequest.none, .normal, .curve].map ModeRequest.code = [0, 1, 2] ∧ Channel.temp.id = 0 ∧ Channel.volt.id = 1 ∧
      Line.scl.code = 0 ∧ Line.sda.code = 1 ∧ ExceptionLabel.undervoltage.code = 1 ∧
      ExceptionLabel.configOutOfRange.code = 2 := by decide

/-- The render lists of the reference instance: `PUTSTR 0, 0, "030"` and `"LOW"` (B4, P5's encodings). -/
theorem test_render_ref :
    putstr 0 0 (Ref.dec3 30) = [0x1000, 0x2030, 0x2033, 0x2030] ∧
      putstr 12 3 [65, 48] = [0x130C, 0x2041, 0x2030] := by decide

/-! ### Witnesses: the hypotheses of each obligation that has any are met together

The scale `KN/KD` is a parameter, so no reading of at least 2000 mV can be shown for it: the witnesses of the clauses
`2000 ≤ tickV s` suppose that a full-scale sample reaches 2000 mV, as it does in the reference instance (5100 mV). -/

/-- Full-scale samples reach the safety floor (true of REF: `2000 ≤ 255 * 20`). -/
def ScaleReachesFloor : Prop := 2000 * Config.kd ≤ 255 * Config.kn

/-- `atPc`, entered, with 100 temperature samples `a`, 20 voltage samples `b` and one poll to come. -/
def ticking (pc : BitVec 5) (a b : Byte) (sel : Bool) : State :=
  { atPc pc true with
    tgt := 100, cnt := 1
    env := { Env.reset with
      tempIn := List.replicate 100 a, voltIn := List.replicate 20 b, pollIn := [⟨false, false, sel⟩] } }

theorem witness_samples (pc : BitVec 5) (a b : Byte) (sel : Bool) :
    (ticking pc a b sel).env.samples .temp 100 =
        (List.replicate 100 a, { (ticking pc a b sel).env with tempIn := [] }) ∧
      ((ticking pc a b sel).env.samples .temp 100).2.samples .volt 20 =
        (List.replicate 20 b, { (ticking pc a b sel).env with tempIn := [], voltIn := [] }) := by
  have h1 := Env.samples_temp_queued (List.replicate 100 a) [] (ticking pc a b sel).env
  have h2 := Env.samples_volt_queued (List.replicate 20 b) [] { (ticking pc a b sel).env with tempIn := [] }
  rw [List.length_replicate, List.append_nil] at h1 h2
  have e1 : (ticking pc a b sel).env.samples .temp 100 =
      (List.replicate 100 a, { (ticking pc a b sel).env with tempIn := [] }) := h1
  exact ⟨e1, by rw [e1]; exact h2⟩

/-- A supply below the floor, whatever the parameters are: every sample 0. -/
theorem witness_low_supply (pc : BitVec 5) (sel : Bool) : (tickV (ticking pc 0 0 sel)).toNat < 2000 := by
  unfold tickV voltOf
  rw [(witness_samples pc 0 0 sel).2]
  have h : sampleSum (List.replicate 20 0) = 0 := by decide
  rw [h]
  simp [Config.rnd, roundWith]

/-- A supply at or above the floor, where the scale reaches it. -/
theorem witness_good_supply (h : ScaleReachesFloor) (pc : BitVec 5) (sel : Bool) :
    2000 ≤ (tickV (ticking pc 0 255 sel)).toNat := by
  unfold tickV voltOf
  rw [(witness_samples pc 0 255 sel).2]
  have hs : sampleSum (List.replicate 20 255) = 5100 := by decide
  have hk := Config.kd_pos
  have hlo : 2000 ≤ Config.rnd (5100 * Config.kn) (20 * Config.kd) := by
    refine le_trans ?_ (floor_le_roundWith _ _ _)
    rw [Nat.le_div_iff_mul_le (by omega)]
    unfold ScaleReachesFloor at h; omega
  have hhi := millivolts_le 5100 (le_refl _)
  have hf := Config.volt_fits
  unfold millivolts at hhi
  rw [hs, BitVec.toNat_ofNat, Nat.mod_eq_of_lt (by omega)]
  exact hlo

theorem witness_DecodeEncodeAgree : (Instr.setcur 7 127).wellFormed = true ∧ (Instr.hold 2 4).wellFormed = true ∧
    (Instr.putch 32).wellFormed = true ∧ (Instr.putch 126).wellFormed = true := by decide

theorem witness_EncodeDecodeAgree : decode (.op 0x177F) = .ok (.setcur 7 127) ∧
    decode (.link (.frame 0x1FF#9)) = .ok (.txbyte 0xFF) := by decide

/-- A state that fetches a given word at reset's `PC`. -/
def fetching (w : OpWord) : State := { State.reset with rom := [(0, w)] }

theorem witness_IllegalWordsAreRefused :
    (fetching 0x3001).direct = none ∧ (fetching 0x3001).run = true ∧ wordIllegal (fetching 0x3001).fetch ∧
      wordIllegal (fetching 0x207F).fetch ∧ wordIllegal (fetching 0x1080).fetch ∧ ¬ wordIllegal (fetching 0x107F).fetch := by
  refine ⟨rfl, rfl, ?_, ?_, ?_, ?_⟩ <;> (unfold wordIllegal; dsimp only; decide)

theorem witness_RomHoldsPipelines : ((9 : Nat) ≤ 9 ∧ (9 : Nat) ≤ 15) ∧ ((9 : Nat) ≤ 15 ∧ (15 : Nat) ≤ 15) := by decide

/-- Every state has a reading; at sum 0 the Celsius value is not negative. -/
theorem witness_ReadingsFollowTransfer (s : State) :
    (∃ t, exec .rdtemp s = .next t) ∧ (∃ t, exec .rdvolt s = .next t) ∧
      (0 : ℚ) ≤ ((0 : ℚ) / 100 * (Config.kn / Config.kd) - 2637) / (-13.6) := by
  refine ⟨⟨_, rfl⟩, ⟨_, rfl⟩, ?_⟩
  norm_num

/-- With full-scale samples it is negative where the scale is large enough (REF: 5100 mV). -/
theorem witness_negative_celsius (h : 2637 * Config.kd < 255 * Config.kn) :
    ((25500 : ℚ) / 100 * (Config.kn / Config.kd) - 2637) / (-13.6) < 0 := by
  have hk : (0 : ℚ) < Config.kd := by exact_mod_cast Config.kd_pos
  have h' : (2637 : ℚ) * Config.kd < 255 * Config.kn := by exact_mod_cast h
  have : (2637 : ℚ) < 255 * (Config.kn / Config.kd) := by rw [← mul_div_assoc, lt_div_iff₀ hk]; exact h'
  apply div_neg_of_pos_of_neg <;> norm_num
  linarith

theorem witness_ReadingRanges : (∃ t, exec .rdtemp State.reset = .next t) ∧ ∃ t, exec .rdvolt State.reset = .next t :=
  ⟨⟨_, rfl⟩, ⟨_, rfl⟩⟩

theorem witness_ReadingsAreMonotone :
    (∃ t, exec .rdtemp State.reset = .next t ∧ t.acc.toNat ≤ t.acc.toNat) ∧
      ∃ t, exec .rdvolt State.reset = .next t ∧ t.acc.toNat ≤ t.acc.toNat :=
  ⟨⟨_, rfl, Nat.le_refl _⟩, ⟨_, rfl, Nat.le_refl _⟩⟩

/-- Two states with the same samples of one channel and other answers of the other channel and of the buttons. -/
theorem witness_ReadingsHaveNoFilterState :
    ((ticking 0x11 5 0 true).env.samples .temp 100).1 = ((ticking 0x12 5 9 false).env.samples .temp 100).1 ∧
      ((ticking 0x11 5 9 true).env.samples .volt 20).1 = ((ticking 0x12 6 9 false).env.samples .volt 20).1 ∧
      (ticking 0x11 5 0 true).env ≠ (ticking 0x12 5 9 false).env ∧
      (∃ t, exec .rdtemp (ticking 0x11 5 0 true) = .next t) ∧ (∃ t, exec .rdtemp (ticking 0x12 5 9 false) = .next t) ∧
      (∃ t, exec .rdvolt (ticking 0x11 5 9 true) = .next t) ∧ ∃ t, exec .rdvolt (ticking 0x12 6 9 false) = .next t := by
  have hv : ∀ pc a sel, ((ticking pc a 9 sel).env.samples .volt 20).1 = List.replicate 20 9 := fun pc a sel => by
    have h := Env.samples_volt_queued (List.replicate 20 9) [] (ticking pc a 9 sel).env
    rw [List.length_replicate, List.append_nil] at h
    exact congrArg Prod.fst h
  refine ⟨?_, by rw [hv, hv], by decide, ⟨_, rfl⟩, ⟨_, rfl⟩, ⟨_, rfl⟩, ⟨_, rfl⟩⟩
  rw [(witness_samples 0x11 5 0 true).1, (witness_samples 0x12 5 9 false).1]

/-- The trap is taken by a tick of `HEAT` and by one of `HOLD`. -/
theorem witness_trap :
    (∃ t, exec (.heat false 0) (ticking 0x11 0 0 true) = .next t ∧ t.v.toNat < 2000) ∧
      ∃ t, exec (.hold 1 3) (ticking 0x19 0 0 true) = .next t ∧ t.v.toNat < 2000 := by
  have key : ∀ pc, (raiseUndervoltage { (ticking pc 0 0 true).measure with tr := .fault }).v.toNat < 2000 := fun pc => by
    rw [trap_eq _ (witness_low_supply _ _)]; exact witness_low_supply _ _
  refine ⟨⟨_, ?_, key 0x11⟩, ⟨_, ?_, key 0x19⟩⟩
  · have h : exec (.heat false 0) (ticking 0x11 0 0 true) = heatTick false (ticking 0x11 0 0 true) :=
      by simp only [exec]; exact execHeat_entered (by decide) (by rfl)
    rw [h, heatTick, controlTick_eq, if_pos (witness_low_supply _ _)]
  · have h : exec (.hold 1 3) (ticking 0x19 0 0 true) = holdTick (ticking 0x19 0 0 true) :=
      by simp only [exec]; exact execHold_entered (by decide) (by decide) (by rfl)
    rw [h, holdTick, controlTick_eq, if_pos (witness_low_supply _ _)]

theorem witness_InterlockDominates :
    ((∃ t, exec .decideOp State.reset = .next t) ∧ State.reset.v.toNat < 2000) ∧
      (ticking 0x11 0 0 true).entered = true ∧
      ∃ t, exec (.heat false 0) (ticking 0x11 0 0 true) = .next t ∧ t.v.toNat < 2000 :=
  ⟨⟨⟨_, rfl⟩, by decide⟩, rfl, witness_trap.1⟩

theorem witness_UndervoltageTrapEntry :
    (Instr.heat true 2).wellFormed = true ∧ (Instr.hold 2 4).wellFormed = true ∧ (ticking 0x11 0 0 true).entered = true ∧
      (tickV (ticking 0x11 0 0 true)).toNat < 2000 := ⟨by decide, by decide, rfl, witness_low_supply _ _⟩

theorem witness_StartAndStopFraming : Port.reset.scl = true ∧ Port.reset.sda = true ∧ Port.reset.start.scl = false := by
  decide

/-- 42_display_wire.md R121: in `STOP` after a byte every write changes a level. -/
theorem test_waveform_stop : waveform { scl := false, sda := true } stopEvents = stopEvents := by decide

/-- R121: in `START` directly after reset both writes change a level. -/
theorem test_waveform_start : waveform Port.reset.levels Port.reset.start.trace.reverse = startEvents := by decide

/-- R121, R115: the bits 0,1,1,1,1,0,0,0 and the released slot change the data line three times after `START`. -/
theorem test_waveform_byte :
    (waveform { scl := false, sda := false } (byteEvents 0x78)).filter (fun e => e matches .wire .sda _) =
      [.wire .sda true, .wire .sda false, .wire .sda true] := by decide

theorem test_pages : Config.pages * 8 = Config.dispH := by decide

theorem witness_WireBytesAreSent :
    (Instr.hdr 127 true, BitVec.ofNat 8 ((127 : BitVec 7).toNat * 2 + true.toNat)).2 = 0xFF ∧
      BitVec.ofNat 8 (0xB0 + (7 : BitVec 3).toNat) = 0xB7 ∧ BitVec.ofNat 8 (0x10 + (15 : BitVec 4).toNat) = 0x1F := by decide

theorem witness_SetcurResult : (127 : Byte).toNat ≤ 127 ∧ 127 < (128 : Byte).toNat := by decide

theorem witness_PutchResult : (32 ≤ (32 : Byte).toNat ∧ (32 : Byte).toNat ≤ 126) ∧
    (32 ≤ (126 : Byte).toNat ∧ (126 : Byte).toNat ≤ 126) ∧ (31 : Byte).toNat < 32 ∧ 126 < (127 : Byte).toNat := by decide

theorem witness_DinitResult : (atPc 0 false).pc ≠ 31#5 ∧ (atPc 30 false).pc ≠ 31#5 := by decide

theorem witness_RenderListRuns :
    (∀ w ∈ [0x130C#16, 0x2041, 0x2030, 0x3000], renderWordLegal w = true) ∧ State.reset.port.idle = true ∧
      (∃ w ∈ [0x130C#16, 0x5000], renderWordLegal w = false) := by
  refine ⟨fun w h => ?_, rfl, 0x5000#16, by simp, by decide⟩
  simp only [List.mem_cons, List.not_mem_nil, or_false] at h
  rcases h with rfl | rfl | rfl | rfl <;> decide

theorem witness_HeatEntryResult : (2 : BitVec 3).toNat = (2 : Fin 5).val ∧ (2 : Fin 5).val ≤ 2 ∧
    (atPc 0x1A false).entered = false := by decide

theorem witness_HeatTickResult : (2 : BitVec 3).toNat ≤ 2 ∧ (ticking 0x1A 0 255 false).entered = true ∧
    (ticking 0x1A 0 255 false).pc ≠ 31#5 ∧ (ScaleReachesFloor → 2000 ≤ (tickV (ticking 0x1A 0 255 false)).toNat) :=
  ⟨by decide, rfl, by decide, fun h => witness_good_supply h _ _⟩

theorem witness_HoldEntryResult : (2 : BitVec 3).toNat = (2 : Fin 5).val ∧ (4 : BitVec 3).toNat = (4 : Fin 5).val ∧
    (3 : Nat) ≤ (4 : Fin 5).val ∧ (atPc 0x1B false).entered = false ∧ (atPc 0x1B false).sp[4] ≠ 0 := by decide

theorem witness_ZeroHoldIsNoOp : (1 : BitVec 3).toNat = (1 : Fin 5).val ∧ (3 : BitVec 3).toNat = (3 : Fin 5).val ∧
    State.reset.entered = false ∧ State.reset.sp[3] = 0 ∧ State.reset.pc ≠ 31#5 := by decide

theorem witness_HoldTickResult : (1 : BitVec 3).toNat ≤ 2 ∧ ((3 : BitVec 3).toNat = 3 ∨ (3 : BitVec 3).toNat = 4) ∧
    (ticking 0x19 0 255 false).entered = true ∧ (ticking 0x19 0 255 false).cnt ≠ 0 ∧ (ticking 0x19 0 255 false).pc ≠ 31#5 ∧
    (ScaleReachesFloor → 2000 ≤ (tickV (ticking 0x19 0 255 false)).toNat) :=
  ⟨by decide, by decide, rfl, by decide, by decide, fun h => witness_good_supply h _ _⟩

theorem witness_CoolResult : (atPc 0x12 false).entered = false ∧ (ticking 0x12 0 0 true).entered = true ∧
    (ticking 0x12 0 0 true).pc ≠ 31#5 := by decide

theorem witness_FaultwResult : (atPc 0x07 false).entered = false ∧ (atPc 0x07 true).entered = true ∧
    (atPc 0x07 true).pc ≠ 31#5 := by decide

theorem witness_EditResult : (4 : BitVec 3).toNat = (4 : Fin 5).val ∧ (atPc 0x17 false).entered = false ∧
    (atPc 0x17 true).entered = true ∧ (atPc 0x17 true).pc ≠ 31#5 := by decide

theorem witness_SetPointsStayInRange : (0 : BitVec 3).toNat = (0 : Fin 5).val ∧ spInRange 0 (atPc 0x10 false).sp[0] ∧
    spInRange 0 50 ∧ spInRange 2 180 ∧ spInRange 3 0 ∧ spInRange 4 255 ∧
    (∃ t, exec (.edit 0) (atPc 0x10 false) = .next t) ∧ ∃ t, exec (.loadsp 0) State.reset = .next t := by
  refine ⟨by decide, ?_, ?_, ?_, ?_, ?_, ⟨_, rfl⟩, ⟨_, rfl⟩⟩ <;> (unfold spInRange; decide)

theorem witness_LoadspResult : (4 : BitVec 3).toNat = (4 : Fin 5).val ∧ State.reset.pc ≠ 31#5 := by decide

theorem witness_BadRegisterIndexIsRefused : 4 < (5 : BitVec 3).toNat ∧ 2 < (3 : BitVec 3).toNat ∧
    ((2 : BitVec 3).toNat ≠ 3 ∧ (2 : BitVec 3).toNat ≠ 4) ∧ ((5 : BitVec 3).toNat ≠ 3 ∧ (5 : BitVec 3).toNat ≠ 4) := by
  decide

/-- One operation of each of the three shapes answers a next state from reset. -/
theorem witness_LinkOperationsFrame : (∃ t, exec (.setcur 7 127) State.reset = .next t) ∧
    (∃ t, exec (.putch 126) State.reset = .next t) ∧ (∃ t, exec .clear State.reset = .next t) ∧
    ∃ t, exec (.data 0) State.reset = .next t := ⟨⟨_, rfl⟩, ⟨_, rfl⟩, ⟨_, rfl⟩, ⟨_, rfl⟩⟩

theorem witness_ControlOperationsFrame : (∃ t, exec .rdtemp State.reset = .next t) ∧
    (∃ t, exec .rdvolt State.reset = .next t) ∧ (∃ t, exec .decideOp State.reset = .next t) ∧
    ∃ t, exec .drive State.reset = .next t := ⟨⟨_, rfl⟩, ⟨_, rfl⟩, ⟨_, rfl⟩, ⟨_, rfl⟩⟩

theorem witness_HeatingPhasesFrame : (∃ t, exec (.heat false 0) (ticking 0x11 0 0 true) = .next t) ∧
    (∃ t, exec (.hold 1 3) (ticking 0x19 0 0 true) = .next t) ∧ (∃ t, exec .cool (atPc 0x12 false) = .next t) ∧
    ∃ t, exec .faultw (atPc 0x07 false) = .next t :=
  ⟨witness_trap.1.imp fun _ h => h.1, witness_trap.2.imp fun _ h => h.1, ⟨_, rfl⟩, ⟨_, rfl⟩⟩

theorem witness_SetPointOperationsFrame : (1 : BitVec 3).toNat = (1 : Fin 5).val ∧
    (∃ t, exec (.edit 1) (atPc 0x14 false) = .next t) ∧ (∃ t, exec (.loadsp 1) State.reset = .next t) ∧
    (∃ t, exec .endOp State.reset = .next t) ∧ (∃ t, exec .dinit State.reset = .next t) ∧ (0 : Fin 5) ≠ 1 :=
  ⟨by decide, ⟨_, rfl⟩, ⟨_, rfl⟩, ⟨_, rfl⟩, ⟨_, rfl⟩, by decide⟩

theorem witness_OnlyEditAndLoadWriteSetPoints : (∀ ra, Instr.cool ≠ .edit ra) ∧ (∀ ra, Instr.cool ≠ .loadsp ra) ∧
    ∃ t, exec .cool (atPc 0x12 false) = .next t := ⟨by simp, by simp, ⟨_, rfl⟩⟩

theorem witness_HeaterFollowsItsEvents : ∃ t, exec .drive { State.reset with dec := .energize } = .next t ∧
    t.port.trace = [.heaterSet true] := ⟨_, rfl, rfl⟩

theorem witness_RomIsNeverWritten : (∃ t, exec .cool (atPc 0x12 false) = .next t) ∧ ∃ t, step State.reset = .next t :=
  ⟨⟨_, rfl⟩, ⟨_, rfl⟩⟩

theorem witness_StoreThenLoadReturnsValue : (4 : Fin 5) ≠ 0 := by decide

theorem witness_OperationsKeepStoreForm : Memory.wf [(0, 200), (4, 0)] = true ∧ State.reset.env.cfg.wf = true ∧
    ∃ t, exec (.loadsp 0) State.reset = .next t := ⟨by decide, by decide, ⟨_, rfl⟩⟩

/-- A sequencer operation, an operation of the display, and an operation that stops. -/
theorem witness_StepRunsDecodedOperation :
    (State.reset.direct = none ∧ State.reset.run = true ∧ decodeOp State.reset.fetch = .ok .dinit ∧
      isSequencerOp .dinit = true ∧ ∃ t, exec .dinit State.reset = .next t) ∧
    (decodeOp (fetching 0x7000).fetch = .ok .decideOp ∧ isSequencerOp .decideOp = false ∧
      ∃ t, exec .decideOp (fetching 0x7000) = .next t ∧ t.pc ≠ 31#5) ∧
    (exec .dinit (atPc 31 false) = .fault .pastRom) ∧
    ((atPc 0x10 false).run = true ∧ (atPc 0x10 false).entered = false ∧ decodeOp (atPc 0x10 false).fetch = .ok (.edit 0) ∧
      isPhaseOp (.edit 0) = true) :=
  ⟨⟨rfl, rfl, by decide, rfl, ⟨_, rfl⟩⟩, ⟨by decide, rfl, ⟨_, rfl, by decide⟩⟩, rfl, rfl, rfl, by decide, rfl⟩

/-- Idle with an answer of the mode poll to come. -/
def idling (m : ModeRequest) : State :=
  { atPc 0x06 false with run := false, env := { Env.reset with modeIn := [m] } }

theorem witness_IdleTickResult : (idling .none).direct = none ∧ (idling .none).run = false ∧ (idling .none).rom = [] ∧
    (idling .none).env.mode.1 = .none ∧ (idling .normal).env.mode.1 = .normal ∧ (idling .curve).env.mode.1 = .curve := by
  decide

theorem witness_PlacedCodeIsRun : State.reset.rom.wf = true ∧ decodeTableWord 16 0x9A00 = some (.heat true 2) ∧
    ({ State.reset with direct := some (.pulse true) } : State).direct = some (.pulse true) ∧
    decodeLink (.pulse true) = .ok (.txbit true) := by decide

theorem witness_setPoints : ∀ i : Fin 5, spInRange i (#v[120, 100, 150, 60, 30] : Vector Byte 5)[i] := by
  unfold spInRange; decide

/-- `atPc` meets the invariant at any address of the pipelines. -/
theorem witness_inv (pc : BitVec 5) (entered : Bool) (h : pcReached pc = true) :
    BlockInv { atPc pc entered with cnt := 60 } where
  store := rfl
  rom := rfl
  direct := rfl
  pc := fun _ => h
  heater := fun h => by cases h
  supply := fun h => by cases h
  setPoints := fun i _ => witness_setPoints i
  temperature := Nat.zero_le _
  voltage := Nat.zero_le _
  link := rfl
  targetWritten := fun _ _ _ => rfl
  countWritten := fun _ _ _ => rfl
  count := fun _ _ _ => (by decide : (60 : Byte) ≠ 0)

theorem witness_StepKeepsBlockInv : BlockInv { atPc 0x12 false with cnt := 60 } ∧
    ∃ t, step { atPc 0x12 false with cnt := 60 } = .next t := ⟨witness_inv _ _ (by decide), ⟨_, rfl⟩⟩

/-- The first `EDIT` after BOOT: no register of the render context has been written. -/
def firstEdit : State := { atPc 0x10 false with written := Written.none }

/-- The same with other values in registers that no rule has written by then. -/
def firstEditOther : State :=
  { firstEdit with t := 194, acc := 1, ns := 2, tgt := 3, cnt := 4, dec := .fault, tr := .fault, first := true }

theorem witness_UnwrittenRegistersAreNotRead :
    BlockInv firstEdit ∧ BlockInv firstEditOther ∧ SameWritten firstEdit firstEditOther ∧
      SameContext firstEdit firstEditOther ∧ (∃ t, step firstEdit = .next t) ∧ ∃ t, step firstEditOther = .next t := by
  refine ⟨?_, ?_, ?_, ?_, ⟨_, rfl⟩, ⟨_, rfl⟩⟩
  · exact ⟨rfl, rfl, rfl, fun _ => by decide, by decide, by decide, fun i _ => witness_setPoints i, by decide,
      Nat.zero_le _, rfl, by decide, by decide, by decide⟩
  · exact ⟨rfl, rfl, rfl, fun _ => by decide, by decide, by decide, fun i _ => witness_setPoints i, by decide,
      Nat.zero_le _, rfl, by decide, by decide, by decide⟩
  · exact ⟨rfl, rfl, rfl, rfl, rfl, rfl, fun _ _ => rfl, by decide, by decide, by decide⟩
  · exact ⟨by decide, by decide, by decide, by decide⟩

/-- 10_state.md R40(d): the context of the first `EDIT` reads none of `T`, `V`, `TGT`, `CNT`; after a control tick in `HEAT`
it holds all but `CNT` (R132). -/
theorem test_context_unwritten :
    renderContext .edit (some 0) firstEditOther = ⟨.edit, true, none, none, none, none, some 0, firstEdit.sp⟩ ∧
      (renderContext .heat none (heatEntry 0 firstEdit).measure).cnt = none ∧
      (renderContext .heat none (heatEntry 0 firstEdit).measure).tgt = some 120 := by
  refine ⟨by decide, ?_, ?_⟩ <;> rw [State.measure_eq] <;> rfl

theorem witness_RunNeverEnds : BlockInv { atPc 0x1B true with cnt := 60 } := witness_inv _ _ (by decide)

/-- A state at the reset vector, other than that of `State.reset`. -/
theorem witness_BootEndsInIdle : BlockInv { State.reset with t := 194 } ∧ ({ State.reset with t := 194 } : State).run = true ∧
    ({ State.reset with t := 194 } : State).pc = 0 := by
  refine ⟨⟨by decide, rfl, rfl, by decide, by decide, by decide, ?_, by decide, Nat.zero_le _, rfl, by decide, by decide, by decide⟩, rfl,
    rfl⟩
  intro i h
  simp [State.loaded, State.reset] at h

theorem witness_FaultIsLatched : BlockInv { atPc 0x07 false with cnt := 60 } ∧
    ({ atPc 0x07 false with cnt := 60 } : State).phase = .fault ∧
    ∃ t, step { atPc 0x07 false with cnt := 60 } = .next t :=
  ⟨witness_inv _ _ (by decide), by decide, ⟨_, rfl⟩⟩

theorem witness_HeatOnlyOnGoodSupply : BlockInv { atPc 0x11 false with cnt := 60 } ∧
    ∃ t, step { atPc 0x11 false with cnt := 60 } = .next t := ⟨witness_inv _ _ (by decide), ⟨_, rfl⟩⟩

/-- Select at the poll of a `COOL` tick, and of a `HEAT` tick on a good supply where the scale gives one. -/
theorem witness_SelectEndsPhase :
    ((ticking 0x12 0 0 true).entered = true ∧ (∃ t, exec .cool (ticking 0x12 0 0 true) = .next t) ∧
      ((ticking 0x12 0 0 true).env.samples .temp 100).2.buttons.1.sel = true) ∧
    (ScaleReachesFloor → 2000 ≤ (tickV (ticking 0x11 0 255 true)).toNat ∧
      (tickEnv (ticking 0x11 0 255 true)).buttons.1.sel = true ∧
      ∃ t, exec (.heat false 0) (ticking 0x11 0 255 true) = .next t) := by
  have hb : (tickEnv (ticking 0x11 0 255 true)).buttons.1.sel = true := by
    unfold tickEnv; rw [(witness_samples 0x11 0 255 true).2]; rfl
  refine ⟨⟨rfl, ?_, by rw [(witness_samples 0x12 0 0 true).1]; rfl⟩, fun h => ⟨witness_good_supply h _ _, hb, ?_⟩⟩
  · have h : exec .cool (ticking 0x12 0 0 true) = coolTick (ticking 0x12 0 0 true) :=
      execCool_entered rfl
    rw [h, coolTick, renderAndPoll_eq, polled_eq, State.readTemperature_eq]
    exact ⟨_, endTick_of _ _ (by rfl) (show (0x12 : BitVec 5) ≠ 31#5 by decide)⟩
  · have hx : exec (.heat false 0) (ticking 0x11 0 255 true) = heatTick false (ticking 0x11 0 255 true) :=
      by simp only [exec]; exact execHeat_entered (by decide) (by rfl)
    obtain ⟨q, h1, -, -⟩ := controlTick_good .heat (ticking 0x11 0 255 true)
      (fun b s => endTick (b.sel || (false && reached s.t s.tgt)) s)
      (Nat.not_lt.mpr (witness_good_supply h 0x11 true))
    rw [hx, heatTick, h1]
    exact ⟨_, endTick_of _ _ (by rfl) (show (0x11 : BitVec 5) ≠ 31#5 by decide)⟩

end Sys2Proof.Tests
end

section
/-! The facts that the proofs about whole steps share: lists of emitted events, the fixed ROM as the sequencer reads it
(30_encoding.md R81), and what a step is made of: one operation, then the entry of the next (44_phases.md R140). -/

namespace Sys2Proof.Machine

/-! ### Emitted events -/

theorem Emitted.append {as bs : List Event} {s m t : State} (h : Emitted as s m) (h' : Emitted bs m t) :
    Emitted (as ++ bs) s t := by
  unfold Emitted at *
  rw [h', h, List.reverse_append, List.append_assoc]

/-- A transaction is writes of the lines only (42_display_wire.md R117). -/
theorem txEvents_isWire (stream : Bool) (bytes : List Byte) : ∀ e ∈ txEvents stream bytes, isWire e = true := by
  have hbyte : ∀ v, (byteEvents v).all isWire = true := fun v => rfl
  have hall : (txEvents stream bytes).all isWire = true := by
    simp [txEvents, List.all_append, List.all_flatMap, hbyte, startEvents, stopEvents, isWire]
  exact fun e he => List.all_eq_true.1 hall e he

/-- A display word is writes of the lines only (43_display_dispatch.md R126 to R128). -/
theorem wordEvents_isWire (w : OpWord) : ∀ e ∈ wordEvents w, isWire e = true := by
  have hpage : ∀ page, ∀ e ∈ pageEvents page, isWire e = true := fun page e he => by
    rcases List.mem_append.1 he with he | he
    · exact txEvents_isWire _ _ e he
    · exact txEvents_isWire _ _ e he
  unfold wordEvents
  split
  · exact txEvents_isWire _ _
  · exact txEvents_isWire _ _
  · intro e he
    simp only [clearEvents, List.mem_append] at he
    rcases he with (((((((he | he) | he) | he) | he) | he) | he) | he) <;> exact hpage _ e he
  · simp

/-- A render list is writes of the lines only (R132). -/
theorem renderEvents_isWire (c : RenderContext) : ∀ e ∈ renderEvents c, isWire e = true := fun e he => by
  obtain ⟨w, -, hw⟩ := List.mem_flatMap.1 he
  exact wordEvents_isWire w e hw

/-! ### The fixed ROM -/

theorem State.fetch_fixed {s : State} (h : s.rom = []) : s.fetch = romWord s.pc.toNat := by
  simp [State.fetch, RomPatch.read, h, cellGet]

theorem State.phase_of_decode {s : State} {i : Instr} (hr : s.run = true) (hd : decodeOp s.fetch = .ok i) :
    s.phase = phaseOf (.ok i) := by
  rw [State.phase, if_pos hr, hd]

theorem State.phase_fixed {s : State} (hr : s.run = true) (h : s.rom = []) :
    s.phase = phaseOf (decodeOp (romWord s.pc.toNat)) := by
  rw [State.phase, if_pos hr, State.fetch_fixed h]

theorem State.phase_faultVector {s : State} (hr : s.run = true) (h : s.rom = []) (hpc : s.pc = faultVector) :
    s.phase = .fault := by
  rw [State.phase_fixed hr h, hpc]
  decide

theorem State.phase_idle {s : State} (hr : s.run = false) : s.phase = .idle := by
  rw [State.phase, hr]; rfl

/-- Which operation stands where in the fixed ROM, and that a phase operation is followed by another word of its
pipeline (30_encoding.md R81, 45_modes.md R168). -/
inductive RomOp (pc : BitVec 5) : Instr → Prop where
  | dinit (h : pc = 0) : RomOp pc .dinit
  | loadsp (ra : BitVec 3) (hra : ra.toNat + 1 = pc.toNat) (h : pc.toNat ≤ 5) : RomOp pc (.loadsp ra)
  | endOp (h : 6 ≤ pc.toNat) : RomOp pc .endOp
  | phaseOp (i : Instr) (hi : isPhaseOp i = true) (h : 7 ≤ pc.toNat) (hnext : pcReached (pc + 1) = true) : RomOp pc i

/-- `RomOp` of what a word decodes to, as a test. -/
def romOpTest (pc : BitVec 5) : Except Defect Instr → Bool
  | .ok .dinit => decide (pc = 0)
  | .ok (.loadsp ra) => decide (ra.toNat + 1 = pc.toNat ∧ pc.toNat ≤ 5)
  | .ok .endOp => decide (6 ≤ pc.toNat)
  | .ok i => isPhaseOp i && decide (7 ≤ pc.toNat) && pcReached (pc + 1)
  | .error _ => false

theorem romOpTest_fixed : ∀ pc : BitVec 5, pcReached pc = true → romOpTest pc (decodeOp (romWord pc.toNat)) = true := by
  decide

theorem romOp_of_test {pc : BitVec 5} {i : Instr} (h : romOpTest pc (.ok i) = true) : RomOp pc i := by
  cases i with
  | dinit => exact .dinit (of_decide_eq_true h)
  | loadsp ra => exact .loadsp ra (of_decide_eq_true h).1 (of_decide_eq_true h).2
  | endOp => exact .endOp (of_decide_eq_true h)
  | _ =>
    simp only [romOpTest, Bool.and_eq_true, decide_eq_true_eq] at h
    exact .phaseOp _ h.1.1 h.1.2 h.2

/-- What `HEAT` and `HOLD` are followed by (R81): the heater is on there only for `COOL` to switch it off. -/
theorem rom_after_heating : ∀ pc : BitVec 5, pcReached pc = true →
    phaseOf (decodeOp (romWord pc.toNat)) = .heat ∨ phaseOf (decodeOp (romWord pc.toNat)) = .hold →
    phaseOf (decodeOp (romWord (pc + 1).toNat)) = .heat ∨ phaseOf (decodeOp (romWord (pc + 1).toNat)) = .hold ∨
      phaseOf (decodeOp (romWord (pc + 1).toNat)) = .cool := by
  decide

/-- The fixed ROM holds operations of the sequencer only (R81). -/
theorem RomOp.isSequencerOp {pc : BitVec 5} {i : Instr} (h : RomOp pc i) : isSequencerOp i = true := by
  cases h with
  | phaseOp i hi => cases i <;> simp_all [isPhaseOp, Machine.isSequencerOp]
  | _ => rfl

/-- A phase operation stands after BOOT and is followed by another word of its pipeline. -/
theorem RomOp.of_isPhaseOp {pc : BitVec 5} {i : Instr} (h : RomOp pc i) (hi : isPhaseOp i = true) :
    7 ≤ pc.toNat ∧ pcReached (pc + 1) = true := by
  cases h with
  | phaseOp i _ h7 hnext => exact ⟨h7, hnext⟩
  | _ => cases hi

theorem State.loaded_five {s : State} (h : 7 ≤ s.pc.toNat) : s.loaded = 5 := by
  rw [State.loaded, if_neg (by omega)]

/-! ### A step: one operation, then the entry of the next -/

/-- A phase operation that has not been entered is entered, or, for a `HOLD` of duration 0, completes (R140, R152). -/
theorem exec_entry {i : Instr} {s t : State} (hi : isPhaseOp i = true) (he : s.entered = false)
    (h : exec i s = .next t) :
    (((∃ ra, i = .edit ra) ∨ i = .faultw) ∧ t = markEntered s) ∨
      (∃ stop ra k, i = .heat stop ra ∧ t = heatEntry k s) ∨
      (∃ ra rb k j, i = .hold ra rb ∧ s.sp[j] ≠ 0 ∧ t = holdEntry k j s) ∨
      (∃ ra rb k j, i = .hold ra rb ∧ s.sp[j] = 0 ∧ s.pc ≠ 31#5 ∧
        t = { holdEntry k j s with pc := s.pc + 1, entered := false }) ∨
      (i = .cool ∧ t = coolEntry s) := by
  cases i with
  | edit ra =>
    obtain ⟨_, _, ⟨-, rfl⟩ | ⟨he', -⟩⟩ := execEdit_next h
    · exact .inl ⟨.inl ⟨ra, rfl⟩, rfl⟩
    · simp [he] at he'
  | heat stop ra =>
    obtain ⟨k, _, ⟨-, rfl⟩ | ⟨he', -⟩ | ⟨he', -⟩⟩ := execHeat_next h
    · exact .inr (.inl ⟨stop, ra, k, rfl, rfl⟩)
    all_goals simp [he] at he'
  | hold ra rb =>
    obtain ⟨k, j, _, _, ⟨-, hz, hp, rfl⟩ | ⟨-, hz, rfl⟩ | ⟨he', -⟩ | ⟨he', -⟩⟩ := execHold_next h
    · exact .inr (.inr (.inr (.inl ⟨ra, rb, k, j, rfl, hz, hp, rfl⟩)))
    · exact .inr (.inr (.inl ⟨ra, rb, k, j, rfl, hz, rfl⟩))
    all_goals simp [he] at he'
  | cool =>
    obtain ⟨-, rfl⟩ | ⟨he', -⟩ := execCool_next h
    · exact .inr (.inr (.inr (.inr ⟨rfl, rfl⟩)))
    · simp [he] at he'
  | faultw =>
    obtain ⟨-, rfl⟩ | ⟨he', -⟩ := execFaultw_next h
    · exact .inl ⟨.inr rfl, rfl⟩
    · simp [he] at he'
  | _ => cases hi

/-- No phase operation waits at `PC` for its entry. -/
def Settled (s : State) : Prop :=
  s.run = true → s.entered = false → ∀ i, decodeOp s.fetch = .ok i → isPhaseOp i = false

/-- `t` is `s` after the entries that end a step (R140): none where nothing waits, otherwise that of the operation at `PC`
and, where it completes at once, those after it. -/
inductive Enters : State → State → Prop where
  | done {s : State} (h : Settled s) : Enters s s
  | entry {s m t : State} {i : Instr} (hr : s.run = true) (he : s.entered = false) (hd : decodeOp s.fetch = .ok i)
      (hi : isPhaseOp i = true) (hx : exec i s = .next m) (ht : Enters m t) : Enters s t

theorem enterFetched_settled {s : State} (h : Settled s) (n : Nat) : enterFetched n s = .next s := by
  cases n with
  | zero => rfl
  | succ n =>
    unfold enterFetched
    split
    · rename_i hc
      simp only [Bool.and_eq_true, Bool.not_eq_true'] at hc
      split
      · rename_i i hd; rw [h hc.1 hc.2 i hd]; rfl
      · rfl
    · rfl

theorem Settled.of_entered {s : State} (h : s.entered = true) : Settled s := fun _ he => by simp [h] at he

/-- One round for each word of the ROM from `PC` on is enough (log 7). -/
theorem enterFetched_next (n : Nat) {s t : State} (hn : 32 ≤ n + s.pc.toNat) (h : enterFetched n s = .next t) :
    Enters s t := by
  induction n generalizing s with
  | zero => have := s.pc.isLt; omega
  | succ n ih =>
    by_cases hs : Settled s
    · rw [enterFetched_settled hs] at h
      rw [next_inj h]
      exact .done hs
    · simp only [Settled, not_forall, Bool.not_eq_false] at hs
      obtain ⟨hr, he, i, hd, hi⟩ := hs
      simp only [enterFetched, hr, he, hd, hi, Bool.not_false, Bool.and_self, if_true] at h
      obtain ⟨m, hx, hm⟩ := andThen_eq_next h
      refine .entry hr he hd hi hx ?_
      have entered : m.entered = true → Enters m t := fun hme => by
        rw [enterFetched_settled (.of_entered hme)] at hm
        rw [next_inj hm]
        exact .done (.of_entered hme)
      obtain ⟨-, rfl⟩ | ⟨_, _, _, -, rfl⟩ | ⟨_, _, _, _, -, -, rfl⟩ | ⟨_, _, _, _, -, -, hp, rfl⟩ | ⟨-, rfl⟩ :=
        exec_entry hi he hx
      · exact entered rfl
      · exact entered rfl
      · exact entered rfl
      · refine ih ?_ hm
        have h31 : s.pc.toNat ≠ 31 := fun h => hp (BitVec.eq_of_toNat_eq h)
        have := s.pc.isLt
        rw [BitVec.toNat_add, show (1 : BitVec 5).toNat = 1 from rfl]
        omega
      · exact entered rfl

/-- The word at `PC` in a run of the block. -/
theorem BlockInv.romOp {s : State} {i : Instr} (h : BlockInv s) (hr : s.run = true) (hd : decodeOp s.fetch = .ok i) :
    RomOp s.pc i := by
  have ht := romOpTest_fixed s.pc (h.pc hr)
  rw [← State.fetch_fixed h.rom, hd] at ht
  exact romOp_of_test ht

/-- Everything a step of the block can do: the operation at `PC` or the Idle tick, and then the entries that follow
(R140, 45_modes.md R165). -/
theorem step_next {s t : State} (h : BlockInv s) (hs : step s = .next t) :
    (∃ i m, s.run = true ∧ decodeOp s.fetch = .ok i ∧ RomOp s.pc i ∧ exec i s = .next m ∧ Enters m t) ∨
      (s.run = false ∧ Enters (idleTick s) t) := by
  unfold step runStep at hs
  rw [h.direct] at hs
  dsimp only at hs
  split at hs
  · rename_i hr
    unfold runOp at hs
    split at hs
    · cases hs
    · rename_i i hd
      obtain ⟨m, hx, hm⟩ := andThen_eq_next hs
      have hop := h.romOp hr hd
      rw [afterOp, if_pos hop.isSequencerOp] at hm
      exact .inl ⟨i, m, hr, hd, hop, hx, enterFetched_next _ (Nat.le_add_right _ _) hm⟩
  · rename_i hr
    exact .inr ⟨by simpa using hr, enterFetched_next _ (Nat.le_add_right _ _) hs⟩

end Sys2Proof.Machine
end

section
/-! The invariant of the block along a step (10_state.md R40, 45_modes.md R168). -/

namespace Sys2Proof.Machine

/-- The invariant between an operation and the entry of the next: that of the block, or, where `COOL` waits for its entry,
that of the block with the heater switched off, which is what the entry does (44_phases.md R153). -/
def MidInv (s : State) : Prop :=
  BlockInv s ∨ (s.phase = .cool ∧ s.entered = false ∧ BlockInv { s with heater := false })

theorem BlockInv.allSetPoints {s : State} (h : BlockInv s) (h7 : 7 ≤ s.pc.toNat) (i : Fin 5) : spInRange i s.sp[i] :=
  h.setPoints i (by rw [State.loaded_five h7]; exact i.isLt)

/-- The heater is off in every phase but `HEAT` and `HOLD` (R40(a)). -/
theorem BlockInv.heater_off {s : State} (h : BlockInv s) (h1 : s.phase ≠ .heat) (h2 : s.phase ≠ .hold) :
    s.heater = false := by
  by_contra hh
  rcases h.heater (by simpa using hh) with hp | hp
  · exact h1 hp
  · exact h2 hp

/-- The state after an operation that completes (R140). -/
def completed (s : State) : State := { s with pc := s.pc + 1, entered := false }

/-- An operation that completes leaves the invariant for the entry of the next (R140, R168). -/
theorem BlockInv.completed {s : State} (h : BlockInv s) (hr : s.run = true) (hnext : pcReached (s.pc + 1) = true)
    (hsp : ∀ i : Fin 5, i.val < (completed s).loaded → spInRange i s.sp[i]) : MidInv (completed s) := by
  have hphase : s.heater = true →
      (Machine.completed s).phase = .heat ∨ (Machine.completed s).phase = .hold ∨ (Machine.completed s).phase = .cool :=
    fun hh => by
      have hp := h.heater hh
      rw [State.phase_fixed hr h.rom] at hp
      rw [State.phase_fixed (s := Machine.completed s) hr h.rom]
      exact rom_after_heating s.pc (h.pc hr) hp
  by_cases hc : (Machine.completed s).phase = .cool
  · exact .inr ⟨hc, rfl, { h with
      pc := fun _ => hnext, heater := nofun, supply := nofun, setPoints := hsp
      targetWritten := nofun, countWritten := nofun, count := nofun }⟩
  · exact .inl { h with
      pc := fun _ => hnext
      heater := fun hh => (hphase hh).imp_right fun hp => hp.resolve_right hc
      setPoints := hsp, targetWritten := nofun, countWritten := nofun, count := nofun }

/-- The end of a tick of a phase operation, with the countdown at `c`. -/
theorem BlockInv.tickEnd_count {s : State} (h : BlockInv s) (hr : s.run = true) (he : s.entered = true) (h7 : 7 ≤ s.pc.toNat)
    (hnext : pcReached (s.pc + 1) = true) {q : Port} (hq : q.idle = true) (done : Bool) (c : Byte)
    (hc : done = false → s.phase = .hold → c ≠ 0) : MidInv { tickEnd done s q with cnt := c } := by
  cases done with
  | false =>
    exact .inl { h with
      link := hq, targetWritten := fun hr _ => h.targetWritten hr he, countWritten := fun hr _ => h.countWritten hr he
      count := fun _ _ => hc rfl }
  | true =>
    have hm : BlockInv { s with tr := .phaseComplete, first := false, cnt := c, port := q, entered := false } :=
      { h with link := hq, targetWritten := nofun, countWritten := nofun, count := nofun }
    exact hm.completed hr hnext fun i _ => h.allSetPoints h7 i

/-- The end of a tick that leaves the countdown alone. -/
theorem BlockInv.tickEnd {s : State} (h : BlockInv s) (hr : s.run = true) (he : s.entered = true) (h7 : 7 ≤ s.pc.toNat)
    (hnext : pcReached (s.pc + 1) = true) {q : Port} (hq : q.idle = true) (done : Bool) : MidInv (tickEnd done s q) :=
  h.tickEnd_count hr he h7 hnext hq done s.cnt fun _ => h.count hr he

/-- The body of a control tick on a good supply keeps the invariant in `HEAT` and `HOLD` (41_actuator.md R101). -/
theorem BlockInv.tickBody {s : State} (h : BlockInv s) (hp : s.phase = .heat ∨ s.phase = .hold)
    (hv : ¬ (tickV s).toNat < 2000) {q : Port} (hq : q.idle = true) : BlockInv (tickBody s q) :=
  { h with
    store := by simpa [Machine.tickBody, tickEnv] using h.store
    heater := fun _ => hp, supply := fun _ => Nat.le_of_not_lt hv
    temperature := tickT_le s, voltage := tickV_le s, link := hq }

/-- The trap leaves the invariant: the heater is off and `PC` is at the fault vector (60_exceptions.md R186). -/
theorem BlockInv.trap {s : State} (h : BlockInv s) (hr : s.run = true) (h7 : 7 ≤ s.pc.toNat)
    (hv : (tickV s).toNat < 2000) : BlockInv (raiseUndervoltage { s.measure with tr := .fault }) := by
  have hp : (raiseUndervoltage { s.measure with tr := .fault }).phase = .fault :=
    State.phase_faultVector (by rw [trap_eq s hv]; exact hr) (by rw [trap_eq s hv]; exact h.rom) rfl
  rw [trap_eq s hv] at hp ⊢
  refine { h with
    store := by simpa [tickEnv] using h.store
    pc := fun _ => (by decide : pcReached 0x07 = true)
    heater := nofun, supply := nofun, setPoints := fun i _ => h.allSetPoints h7 i
    temperature := tickT_le s, voltage := tickV_le s, targetWritten := ?_, countWritten := ?_, count := ?_ }
  all_goals
    intro _ _ hp'
    rw [hp] at hp'
    simp at hp'

/-- The entry of an operation other than `HEAT` and `HOLD` writes no register of the invariant. -/
theorem BlockInv.markEntered {s : State} (h : BlockInv s) (h1 : s.phase ≠ .heat) (h2 : s.phase ≠ .hold) :
    BlockInv (markEntered s) :=
  { h with
    targetWritten := fun _ _ hp => (hp.elim h1 h2).elim
    countWritten := fun _ _ hp => (h2 hp).elim
    count := fun _ _ hp => (h2 hp).elim }

/-- The entry of a phase operation, from the invariant between operations (R140, R142, R143, R153). -/
theorem MidInv.entry {i : Instr} {s t : State} (h : MidInv s) (hr : s.run = true) (he : s.entered = false)
    (hd : decodeOp s.fetch = .ok i) (hi : isPhaseOp i = true) (hx : exec i s = .next t) : MidInv t := by
  have hp := State.phase_of_decode hr hd
  obtain ⟨hi', rfl⟩ | ⟨stop, ra, k, rfl, rfl⟩ | ⟨ra, rb, k, j, rfl, hz, rfl⟩ | ⟨ra, rb, k, j, rfl, hz, -, rfl⟩ | ⟨rfl, rfl⟩ :=
    exec_entry hi he hx
  · rcases hi' with ⟨ra, rfl⟩ | rfl
    all_goals
      rcases h with h | ⟨hc, -⟩
      · exact .inl (h.markEntered (by simp [hp, phaseOf]) (by simp [hp, phaseOf]))
      · simp [hp, phaseOf] at hc
  · rcases h with h | ⟨hc, -⟩
    · exact .inl { h with
        targetWritten := fun _ _ _ => rfl
        countWritten := fun _ _ (h : s.phase = .hold) => by simp [hp, phaseOf] at h
        count := fun _ _ (h : s.phase = .hold) => by simp [hp, phaseOf] at h }
    · simp [hp, phaseOf] at hc
  · rcases h with h | ⟨hc, -⟩
    · exact .inl { h with
        targetWritten := fun _ _ _ => rfl, countWritten := fun _ _ _ => rfl, count := fun _ _ _ => hz }
    · simp [hp, phaseOf] at hc
  · rcases h with h | ⟨hc, -⟩
    · obtain ⟨h7, hnext⟩ := (h.romOp hr hd).of_isPhaseOp hi
      have hm : BlockInv { holdEntry k j s with entered := false } :=
        { h with targetWritten := nofun, countWritten := nofun, count := nofun }
      exact hm.completed hr hnext fun i _ => h.allSetPoints h7 i
    · simp [hp, phaseOf] at hc
  · have hoff : BlockInv { s with heater := false } := by
      rcases h with h | ⟨-, -, h⟩
      · exact { h with heater := nofun, supply := nofun }
      · exact h
    have hp' : ({ s with heater := false } : State).phase = .cool := hp
    have hm := hoff.markEntered (by simp [hp']) (by simp [hp'])
    exact .inl { hm with }

/-! ### The operations, the entries and the Idle tick -/

/-- The state of a tick of `COOL` before its end (R144). -/
def coolBody (s : State) : State :=
  { s with
    t := tickT s, written := { s.written with t := true }
    acc := BitVec.ofNat 16 (sampleSum (s.env.samples .temp 100).1), ns := 0
    env := (s.env.samples .temp 100).2.buttons.2 }

theorem BlockInv.coolBody {s : State} (h : BlockInv s) : BlockInv (coolBody s) :=
  { h with store := by simpa [Machine.coolBody] using h.store, temperature := tickT_le s }

/-- A set point after one has been written. -/
theorem set_getElem (sp : Vector Byte 5) (i j : Fin 5) (x : Byte) :
    (sp.set i x)[j] = if j = i then x else sp[j] := by
  simp [Vector.getElem_set, Fin.ext_iff, eq_comm]

/-- Writing one set point with a value in its range keeps the others in theirs (10_state.md R21). -/
theorem spInRange_set {sp : Vector Byte 5} {i : Fin 5} {x : Byte} (hx : spInRange i x) {j : Fin 5}
    (hj : j ≠ i → spInRange j sp[j]) : spInRange j (sp.set i x)[j] := by
  rw [set_getElem]
  split
  · subst j; exact hx
  · exact hj ‹_›

/-- A tick of a phase operation leaves the invariant for the entry of the next (R40, R101). -/
theorem BlockInv.tick {i : Instr} {s t : State} (h : BlockInv s) (hr : s.run = true) (he : s.entered = true)
    (hd : decodeOp s.fetch = .ok i) (hi : isPhaseOp i = true) (h7 : 7 ≤ s.pc.toNat)
    (hnext : pcReached (s.pc + 1) = true) (hx : exec i s = .next t) : MidInv t := by
  have hp := State.phase_of_decode hr hd
  cases i with
  | edit ra =>
    obtain ⟨k, -, ⟨he', -⟩ | ⟨-, x, rfl, done, -, -, q, m, rfl, hm, hq, -⟩⟩ := execEdit_next hx
    · simp [he] at he'
    · have hb : BlockInv
          { s with sp := s.sp.set k (editValue k s.env.buttons.1 s.sp[k]), env := { s.env.buttons.2 with cfg := m } } :=
        { h with
          store := by
            rw [hm]
            split
            · exact Memory.write_wf _ _ _ h.store
            · exact h.store
          setPoints := fun j hj => spInRange_set (editValue_inRange k _ _ (h.allSetPoints h7 k)) fun _ => h.setPoints j hj }
      exact hb.tickEnd hr he h7 hnext (hq h.link) done
  | heat stop ra =>
    obtain ⟨k, -, ⟨he', -⟩ | ⟨-, hv, rfl⟩ | ⟨-, hv, -, q, rfl, hq, -⟩⟩ := execHeat_next hx
    · simp [he] at he'
    · exact .inl (h.trap hr h7 hv)
    · exact (h.tickBody (.inl hp) hv (hq h.link)).tickEnd hr he h7 hnext (hq h.link) _
  | hold ra rb =>
    obtain ⟨k, j, -, -, ⟨he', -⟩ | ⟨he', -⟩ | ⟨-, hv, rfl⟩ | ⟨-, hv, -, q, rfl, hq, -⟩⟩ := execHold_next hx
    · simp [he] at he'
    · simp [he] at he'
    · exact .inl (h.trap hr h7 hv)
    · refine (h.tickBody (.inr hp) hv (hq h.link)).tickEnd_count hr he h7 hnext (hq h.link) _ _ fun hdone _ => ?_
      simp only [holdDone, Bool.or_eq_false_iff, beq_eq_false_iff_ne] at hdone
      exact hdone.2
  | cool =>
    obtain ⟨he', -⟩ | ⟨-, done, -, -, q, rfl, hq, -⟩ := execCool_next hx
    · simp [he] at he'
    · exact h.coolBody.tickEnd hr he h7 hnext (hq h.link) done
  | faultw =>
    obtain ⟨he', -⟩ | ⟨-, done, -, -, q, rfl, hq, -⟩ := execFaultw_next hx
    · simp [he] at he'
    · have hb : BlockInv { s with env := s.env.buttons.2 } := { h with store := by simpa using h.store }
      exact hb.tickEnd hr he h7 hnext (hq h.link) done
  | _ => cases hi

/-- What `LOADSP` leaves (44_phases.md R147). -/
theorem execLoadsp_next {ra : BitVec 3} {s t : State} (h : execLoadsp ra s = .next t) :
    ∃ i, setPointIndex ra = some i ∧
      t = completed ((s.cfgLoad i).2.setSp i (validated i (s.env.cfg.read i))) := by
  unfold execLoadsp at h
  split at h
  · cases h
  · rename_i i hi
    exact ⟨i, hi, (completeOp_next h).2⟩

theorem pcReached_of_boot : ∀ pc : BitVec 5, pc.toNat ≤ 5 → pcReached (pc + 1) = true := by decide

/-- `LOADSP SPk` adds `k` to the loaded set points, and no other (45_modes.md R169). -/
theorem loaded_of_completed {s : State} {j k : Fin 5} (hr : s.run = true) (hk : s.pc.toNat = k.val + 1)
    (hj : j.val < (completed s).loaded) (hjk : j ≠ k) : j.val < s.loaded := by
  have hne : (j : Nat) ≠ k := fun he => hjk (Fin.ext he)
  have hpc : (s.pc + 1).toNat = s.pc.toNat + 1 := by
    rw [BitVec.toNat_add, show (1 : BitVec 5).toNat = 1 from rfl]; omega
  simp only [State.loaded, Machine.completed, hr, hpc, true_and] at hj ⊢
  split at hj <;> split <;> omega

/-- The operation at `PC` leaves the invariant for the entry of the next (R40). -/
theorem BlockInv.exec {i : Instr} {s t : State} (h : BlockInv s) (hr : s.run = true) (hd : decodeOp s.fetch = .ok i)
    (hx : exec i s = .next t) : MidInv t := by
  have hp := State.phase_of_decode hr hd
  cases h.romOp hr hd with
  | dinit hpc =>
    obtain ⟨-, rfl⟩ := completeOp_next hx
    have hb : BlockInv (s.onPort Port.bringUp) := { h with link := rfl }
    refine hb.completed hr (by rw [State.onPort_pc, hpc]; decide) fun i hi => absurd hi ?_
    simp [State.loaded, Machine.completed, hpc, hr]
  | loadsp ra hra h5 =>
    obtain ⟨k, hk, rfl⟩ := execLoadsp_next hx
    have hkpc : s.pc.toNat = k.val + 1 := by rw [← hra, setPointIndex_eq hk]
    have hb : BlockInv ((s.cfgLoad k).2.setSp k (validated k (s.env.cfg.read k))) :=
      { h with setPoints := fun j hj => spInRange_set (validated_inRange k _) fun _ => h.setPoints j hj }
    refine hb.completed hr ?_ fun j hj => spInRange_set (validated_inRange k _) fun hjk =>
      h.setPoints j (loaded_of_completed hr hkpc hj hjk)
    rw [State.setSp_pc, State.cfgLoad_pc]
    exact pcReached_of_boot s.pc h5
  | endOp h6 =>
    rw [next_inj hx]
    have hoff := h.heater_off (by simp [hp, phaseOf]) (by simp [hp, phaseOf])
    refine .inl { h with
      pc := nofun
      heater := fun hh => absurd (hoff.symm.trans hh) (by decide)
      setPoints := fun i _ => h.setPoints i ?_
      targetWritten := nofun, countWritten := nofun, count := nofun }
    rw [State.loaded]
    split <;> omega
  | phaseOp i hi h7 hnext =>
    cases he : s.entered with
    | false => exact MidInv.entry (.inl h) hr he hd hi hx
    | true => exact h.tick hr he hd hi h7 hnext hx

/-- The entries that end a step give the invariant back: `COOL` does not wait any more. -/
theorem MidInv.enters {s t : State} (h : MidInv s) (ht : Enters s t) : BlockInv t := by
  induction ht with
  | done hs =>
    rename_i s
    rcases h with h | ⟨hc, he, h⟩
    · exact h
    · have hr : s.run = true := by
        by_contra hr
        simp [State.phase_idle (by simpa using hr)] at hc
      obtain ⟨i, hd⟩ : ∃ i, decodeOp s.fetch = .ok i := by
        rw [State.phase, if_pos hr] at hc
        cases hd : decodeOp s.fetch with
        | ok i => exact ⟨i, rfl⟩
        | error e => simp [hd, phaseOf] at hc
      have hi := hs hr he i hd
      rw [State.phase_of_decode hr hd] at hc
      cases i <;> simp [phaseOf, isPhaseOp] at hc hi
  | entry hr he hd hi hx _ ih => exact ih (h.entry hr he hd hi hx)

/-- The Idle tick keeps the invariant (45_modes.md R165). -/
theorem BlockInv.idleTick {s : State} (h : BlockInv s) (hr : s.run = false) : BlockInv (idleTick s) := by
  have hp := State.phase_idle hr
  have hoff := h.heater_off (by simp [hp]) (by simp [hp])
  have hnot : ∀ {P : Prop}, s.heater = true → P := fun hh => absurd (hoff.symm.trans hh) (by decide)
  have hsp : ∀ i : Fin 5, spInRange i s.sp[i] := fun i => h.setPoints i (by simp [State.loaded, hr])
  have hstore : s.env.mode.2.cfg.wf = true := by simpa using h.store
  unfold Machine.idleTick
  split
  · exact { h with
      store := hstore, pc := fun _ => (by decide : pcReached normalEntry = true), heater := hnot
      setPoints := fun i _ => hsp i, targetWritten := nofun, countWritten := nofun, count := nofun }
  · exact { h with
      store := hstore, pc := fun _ => (by decide : pcReached curveEntry = true), heater := hnot
      setPoints := fun i _ => hsp i, targetWritten := nofun, countWritten := nofun, count := nofun }
  · exact { h with store := hstore }

/-- Settles O54: the operation at `PC` leaves the invariant but for an entry of `COOL`, and the entries that end the step
restore it. -/
theorem stepKeepsBlockInv : Obligations.StepKeepsBlockInv := by
  intro s t h hs
  obtain ⟨i, m, hr, hd, -, hx, ht⟩ | ⟨hr, ht⟩ := step_next h hs
  · exact (h.exec hr hd hx).enters ht
  · exact MidInv.enters (.inl (h.idleTick hr)) ht

/-- Settles O53: every clause is about `State.reset`, and none of its set points is loaded. -/
theorem resetMeetsBlockInv : Obligations.ResetMeetsBlockInv where
  store := rfl
  rom := rfl
  direct := rfl
  pc := fun _ => rfl
  heater := nofun
  supply := nofun
  setPoints := fun i hi => absurd hi (by simp [State.loaded, State.reset])
  temperature := Nat.zero_le _
  voltage := Nat.zero_le _
  link := rfl
  targetWritten := nofun
  countWritten := nofun
  count := nofun

end Sys2Proof.Machine
end

section
/-! Readings, set points and the heater output of single operations (10_state.md R21, R24, R28), and reset (R39). -/

namespace Sys2Proof.Machine

/-- Settles O52: both parts are what `State.reset` and `State.applyReset` write. -/
theorem resetLeavesGivenValues : Obligations.ResetLeavesGivenValues :=
  ⟨by decide, fun _ => ⟨rfl, fun _ => rfl⟩⟩

/-- Settles O9: the sums of 100 and of 20 samples fit `ACC`, so it holds them exactly. -/
theorem readingRanges : Obligations.ReadingRanges := by
  refine ⟨fun s t h => ?_, fun s t h => ?_⟩
  · rw [next_inj h, State.readTemperature_tick]
    have hsum := tempSum_lt s.env
    have hacc := Nat.mod_eq_of_lt (show sampleSum (s.env.samples .temp 100).1 < 2 ^ 16 by omega)
    exact ⟨tickT_le s, hacc, hacc.trans_le hsum⟩
  · rw [next_inj h, State.readVoltage_eq]
    have hsum := voltSum_lt s.env
    have hacc := Nat.mod_eq_of_lt (show sampleSum (s.env.samples .volt 20).1 < 2 ^ 16 by omega)
    exact ⟨(Nat.mod_le _ _).trans (millivolts_le _ hsum), hacc, hacc.trans_le hsum⟩

/-- Settles O36: a poll keeps the edited value in its range, and a load validates the stored byte. -/
theorem setPointsStayInRange : Obligations.SetPointsStayInRange := by
  intro ra i s t hra
  refine ⟨fun hi h => ?_, fun h => ?_⟩
  · obtain ⟨k, hk, hcase⟩ := execEdit_next h
    obtain rfl : i = k := Option.some.inj ((setPointIndex_of hra).symm.trans hk)
    obtain ⟨-, rfl⟩ | ⟨-, x, rfl, done, -, -, q, m, rfl, -⟩ := hcase
    · exact hi
    · exact spInRange_set (editValue_inRange i _ _ hi) fun hii => absurd rfl hii
  · obtain ⟨k, hk, rfl⟩ := execLoadsp_next h
    obtain rfl : i = k := Option.some.inj ((setPointIndex_of hra).symm.trans hk)
    exact spInRange_set (validated_inRange i _) fun hii => absurd rfl hii

/-! ### The heater output and its events -/

/-- No event of the list sets the heater. -/
def NoHeaterSet (evs : List Event) : Prop := ∀ b, Event.heaterSet b ∉ evs

theorem heaterAfter_append (h : Bool) (as bs : List Event) :
    heaterAfter h (as ++ bs) = heaterAfter (heaterAfter h as) bs := by
  induction as generalizing h with
  | nil => rfl
  | cons e as ih => cases e <;> exact ih _

theorem NoHeaterSet.heaterAfter {evs : List Event} (hn : NoHeaterSet evs) (h : Bool) : heaterAfter h evs = h := by
  induction evs with
  | nil => rfl
  | cons e evs ih =>
    have ih := ih fun b hb => hn b (List.mem_cons_of_mem _ hb)
    cases e with
    | heaterSet b => exact absurd List.mem_cons_self (hn b)
    | _ => exact ih

theorem NoHeaterSet.append {as bs : List Event} (ha : NoHeaterSet as) (hb : NoHeaterSet bs) : NoHeaterSet (as ++ bs) :=
  fun b h => (List.mem_append.1 h).elim (ha b) (hb b)

theorem noHeaterSet_of_isWire {evs : List Event} (h : ∀ e ∈ evs, isWire e = true) : NoHeaterSet evs :=
  fun b hb => by simpa [isWire] using h _ hb

theorem noHeaterSet_renderEvents (c : RenderContext) : NoHeaterSet (renderEvents c) :=
  noHeaterSet_of_isWire (renderEvents_isWire c)

theorem noHeaterSet_samples (ch : Channel) (l : List Byte) : NoHeaterSet (l.map (Event.adcRead ch)) :=
  fun b hb => by simp at hb

theorem noHeaterSet_tickReadEvents (s : State) : NoHeaterSet (tickReadEvents s) :=
  (noHeaterSet_samples _ _).append (noHeaterSet_samples _ _)

/-- `s` to `t` without a `HeaterSet`: the heater keeps its level. -/
def HeaterKept (s t : State) : Prop := ∃ evs, Emitted evs s t ∧ NoHeaterSet evs ∧ t.heater = s.heater

/-- `s` to `t` with exactly one `HeaterSet`, that of the level `b` which the heater has after it. -/
def HeaterDriven (b : Bool) (s t : State) : Prop :=
  ∃ as bs, Emitted (as ++ .heaterSet b :: bs) s t ∧ NoHeaterSet as ∧ NoHeaterSet bs ∧ t.heater = b

theorem Emitted.of_trace {pre evs : List Event} {s t : State}
    (h : t.port.trace = pre ++ evs.reverse ++ s.port.trace) : Emitted (evs ++ pre.reverse) s t := by
  simp [Emitted, h]

theorem noHeaterSet_ite {c : Prop} [Decidable c] {as bs : List Event} (h : NoHeaterSet (as ++ bs)) :
    NoHeaterSet (if c then as else bs).reverse := fun b hb => by
  rw [List.mem_reverse] at hb
  split at hb
  · exact h b (List.mem_append_left _ hb)
  · exact h b (List.mem_append_right _ hb)

/-- An operation that emits nothing. -/
theorem heaterKept_silent {s t : State} (hp : t.port = s.port) (hh : t.heater = s.heater) : HeaterKept s t :=
  ⟨[], by rw [Emitted, hp]; rfl, by simp [NoHeaterSet], hh⟩

/-- An operation that emits one event of another kind. -/
theorem heaterKept_one {s t : State} (e : Event) (hp : t.port.trace = e :: s.port.trace) (he : NoHeaterSet [e])
    (hh : t.heater = s.heater) : HeaterKept s t := ⟨[e], hp, he, hh⟩

/-- An operation that only sends on the link. -/
theorem heaterKept_onPort {evs : List Event} {f : Port → Port} {s : State} (h : ∀ e ∈ evs, isWire e = true)
    (hf : (f s.port).trace = evs.reverse ++ s.port.trace) : HeaterKept s (s.onPort f) :=
  ⟨evs, hf, noHeaterSet_of_isWire h, rfl⟩

theorem heaterKept_txByte (v : Byte) (s : State) : HeaterKept s (s.onPort (Port.txByte v)) :=
  heaterKept_onPort (List.all_eq_true.1 rfl) (by rw [Port.txByte_eq])

/-- A tick that renders and polls only (44_phases.md R145, R146). -/
theorem heaterKept_of_render {c : RenderContext} {b : Buttons} {pre : List Event} {s t : State}
    (h : t.port.trace = pre ++ (renderEvents c ++ [Event.pollInputs b]).reverse ++ s.port.trace)
    (hpre : NoHeaterSet pre.reverse) (hh : t.heater = s.heater) : HeaterKept s t :=
  ⟨_, .of_trace h, ((noHeaterSet_renderEvents c).append (by simp [NoHeaterSet])).append hpre, hh⟩

/-- A control tick on a good supply (R141): one `HeaterSet`, between the readings and the render list. -/
theorem heaterDriven_of_tickEvents {op : PhaseOp} {pre : List Event} {s t : State}
    (h : t.port.trace = pre ++ (tickEvents op s).reverse ++ s.port.trace) (hpre : NoHeaterSet pre.reverse)
    (hh : t.heater = decide ((tickT s).toNat < s.tgt.toNat)) :
    HeaterDriven (decide ((tickT s).toNat < s.tgt.toNat)) s t := by
  have hem := Emitted.of_trace h
  simp only [tickEvents, List.append_assoc, List.singleton_append] at hem
  exact ⟨_, _, hem, noHeaterSet_tickReadEvents s,
    (noHeaterSet_renderEvents _).append (.append (as := [_]) (by simp [NoHeaterSet]) hpre), hh⟩

/-- The trap (60_exceptions.md R186): one `HeaterSet(0)` after the readings. -/
theorem heaterDriven_trap {s : State} (hv : (tickV s).toNat < 2000) :
    HeaterDriven false s (raiseUndervoltage { s.measure with tr := .fault }) := by
  rw [trap_eq s hv]
  exact ⟨tickReadEvents s, [], by simp [Emitted], noHeaterSet_tickReadEvents s, by simp [NoHeaterSet], rfl⟩

/-- What an operation does to the heater (10_state.md R28, 41_actuator.md R101, R105): nothing, or one `HeaterSet`; and a
`HeaterSet(1)` only by `DRIVE` or a tick of `HEAT` or `HOLD` with a good supply. -/
theorem exec_heater {i : Instr} {s t : State} (h : exec i s = .next t) :
    HeaterKept s t ∨ ∃ b, HeaterDriven b s t ∧
      (i = .drive ∨ (i = .cool ∧ b = false) ∨
        (((∃ stop ra, i = .heat stop ra) ∨ (∃ ra rb, i = .hold ra rb)) ∧ (b = true → 2000 ≤ t.v.toNat))) := by
  cases i with
  | setcur row col =>
    simp only [exec, execSetcur] at h
    split at h
    · rw [next_inj h]
      exact .inl (heaterKept_onPort (txEvents_isWire _ _) (Port.setCursor_sent row col s.port).trace)
    · cases h
  | putch c =>
    simp only [exec, execPutch] at h
    split at h
    · rw [next_inj h]
      exact .inl (heaterKept_onPort (txEvents_isWire _ _) (Port.putChar_sent c s.port).trace)
    · cases h
  | clear =>
    rw [next_inj h]
    exact .inl (heaterKept_onPort (wordEvents_isWire 0x3000) (Port.clear_sent s.port).trace)
  | dinit =>
    obtain ⟨-, rfl⟩ := completeOp_next h
    exact .inl (heaterKept_one .dispInit rfl (by simp [NoHeaterSet]) rfl)
  | rdtemp =>
    rw [next_inj h, State.readTemperature_eq]
    exact .inl ⟨_, rfl, noHeaterSet_samples _ _, rfl⟩
  | rdvolt =>
    rw [next_inj h, State.readVoltage_eq]
    exact .inl ⟨_, rfl, noHeaterSet_samples _ _, rfl⟩
  | decideOp => rw [next_inj h]; exact .inl (heaterKept_silent rfl rfl)
  | edit ra =>
    obtain ⟨k, -, ⟨-, rfl⟩ | ⟨-, x, -, done, -, -, q, m, rfl, -, -, hq⟩⟩ := execEdit_next h
    · exact .inl (heaterKept_silent rfl rfl)
    · exact .inl (heaterKept_of_render hq (noHeaterSet_ite (by simp [NoHeaterSet])) rfl)
  | heat stop ra =>
    obtain ⟨k, -, ⟨-, rfl⟩ | ⟨-, hv, rfl⟩ | ⟨-, hv, -, q, rfl, -, hq⟩⟩ := execHeat_next h
    · exact .inl (heaterKept_silent rfl rfl)
    · exact .inr ⟨_, heaterDriven_trap hv, .inr (.inr ⟨.inl ⟨_, _, rfl⟩, nofun⟩)⟩
    · exact .inr ⟨_, heaterDriven_of_tickEvents hq (noHeaterSet_ite (by simp [NoHeaterSet])) rfl,
        .inr (.inr ⟨.inl ⟨_, _, rfl⟩, fun _ => Nat.le_of_not_lt hv⟩)⟩
  | hold ra rb =>
    obtain ⟨k, j, -, -, ⟨-, -, -, rfl⟩ | ⟨-, -, rfl⟩ | ⟨-, hv, rfl⟩ | ⟨-, hv, -, q, rfl, -, hq⟩⟩ := execHold_next h
    · exact .inl (heaterKept_silent rfl rfl)
    · exact .inl (heaterKept_silent rfl rfl)
    · exact .inr ⟨_, heaterDriven_trap hv, .inr (.inr ⟨.inr ⟨_, _, rfl⟩, nofun⟩)⟩
    · exact .inr ⟨_, heaterDriven_of_tickEvents hq (noHeaterSet_ite (by simp [NoHeaterSet])) rfl,
        .inr (.inr ⟨.inr ⟨_, _, rfl⟩, fun _ => Nat.le_of_not_lt hv⟩)⟩
  | cool =>
    obtain ⟨-, rfl⟩ | ⟨-, done, -, -, q, rfl, -, hq⟩ := execCool_next h
    · exact .inr ⟨false, ⟨[], [], rfl, by simp [NoHeaterSet], by simp [NoHeaterSet], rfl⟩, .inr (.inl ⟨rfl, rfl⟩)⟩
    · exact .inl ⟨_, .of_trace hq, (((noHeaterSet_samples _ _).append (noHeaterSet_renderEvents _)).append
        (by simp [NoHeaterSet])).append (noHeaterSet_ite (by simp [NoHeaterSet])), rfl⟩
  | faultw =>
    obtain ⟨-, rfl⟩ | ⟨-, done, -, -, q, rfl, -, hq⟩ := execFaultw_next h
    · exact .inl (heaterKept_silent rfl rfl)
    · exact .inl (heaterKept_of_render hq (noHeaterSet_ite (by simp [NoHeaterSet])) rfl)
  | endOp => rw [next_inj h]; exact .inl (heaterKept_silent rfl rfl)
  | loadsp ra =>
    obtain ⟨k, -, rfl⟩ := execLoadsp_next h
    exact .inl (heaterKept_one (.cfgLoad k.val (s.env.cfg.read k)) rfl (by simp [NoHeaterSet]) rfl)
  | drive =>
    rw [next_inj h]
    exact .inr ⟨_, ⟨[], [], rfl, by simp [NoHeaterSet], by simp [NoHeaterSet], rfl⟩, .inl rfl⟩
  | hdr addr stream => rw [next_inj h]; exact .inl (heaterKept_txByte _ s)
  | cmdPage row => rw [next_inj h]; exact .inl (heaterKept_txByte _ s)
  | cmdColh high => rw [next_inj h]; exact .inl (heaterKept_txByte _ s)
  | cmdColl low => rw [next_inj h]; exact .inl (heaterKept_txByte _ s)
  | data d => rw [next_inj h]; exact .inl (heaterKept_txByte _ s)
  | txbit b =>
    rw [next_inj h]
    exact .inl (heaterKept_onPort (evs := bitEvents b) (List.all_eq_true.1 rfl) rfl)
  | txbyte v => rw [next_inj h]; exact .inl (heaterKept_txByte _ s)

/-- Settles O45: an operation emits no `HeaterSet` and keeps the output, or emits one and has its level. -/
theorem heaterFollowsItsEvents : Obligations.HeaterFollowsItsEvents := by
  intro i s t h
  obtain ⟨evs, hem, hno, hh⟩ | ⟨b, ⟨as, bs, hem, has, hbs, hh⟩, hi⟩ := exec_heater h
  · exact ⟨evs, hem, hh.trans (hno.heaterAfter _).symm, fun ⟨b, hb⟩ => absurd hb (hno b)⟩
  · refine ⟨_, hem, ?_, fun _ => ?_⟩
    · rw [heaterAfter_append, has.heaterAfter, hh]
      exact (hbs.heaterAfter b).symm
    · exact hi.imp_right fun hi => hi.imp And.left And.left

/-- The entries that end a step switch the heater on nowhere and read no supply (44_phases.md R142, R143, R153). -/
theorem Enters.heater {s t : State} (h : Enters s t) :
    ∃ evs, Emitted evs s t ∧ Event.heaterSet true ∉ evs ∧ t.v = s.v := by
  induction h with
  | done => exact ⟨[], rfl, by simp, rfl⟩
  | @entry s m t i _ he _ hi hx _ ih =>
    obtain ⟨bs, hbs, hno, hv⟩ := ih
    obtain ⟨-, rfl⟩ | ⟨_, _, _, -, rfl⟩ | ⟨_, _, _, _, -, -, rfl⟩ | ⟨_, _, _, _, -, -, -, rfl⟩ | ⟨-, rfl⟩ :=
      exec_entry hi he hx
    · exact ⟨bs, hbs, hno, hv⟩
    · exact ⟨bs, hbs, hno, hv⟩
    · exact ⟨bs, hbs, hno, hv⟩
    · exact ⟨bs, hbs, hno, hv⟩
    · exact ⟨_, Emitted.append (as := [.heaterSet false]) (m := coolEntry s) rfl hbs, by simpa using hno, hv⟩

/-- The Idle tick emits no `HeaterSet` (45_modes.md R165). -/
theorem idleTick_emitted (s : State) : ∃ evs, Emitted evs s (idleTick s) ∧ NoHeaterSet evs := by
  unfold idleTick
  split
  · exact ⟨[.pollMode s.env.mode.1], rfl, by simp [NoHeaterSet]⟩
  · exact ⟨[.pollMode s.env.mode.1], rfl, by simp [NoHeaterSet]⟩
  · exact ⟨[.pollMode s.env.mode.1, .delayTick], rfl, by simp [NoHeaterSet]⟩

/-- Settles O58: of what a step runs, only the operation at `PC` can switch the heater on, and only by a control tick, whose
supply reading the entries after it leave as it is. -/
theorem heatOnlyOnGoodSupply : Obligations.HeatOnlyOnGoodSupply := by
  intro s t h hs
  obtain ⟨i, m, hr, hd, hop, hx, ht⟩ | ⟨hr, ht⟩ := step_next h hs
  · obtain ⟨es, hes, hoff, hv⟩ := ht.heater
    obtain ⟨evs, hem, hno, -⟩ | ⟨b, ⟨as, bs, hem, has, hbs, -⟩, hi⟩ := exec_heater hx
    · refine ⟨_, hem.append hes, fun hon => ?_⟩
      exact absurd hon (by simp [hno true, hoff])
    · refine ⟨_, hem.append hes, fun hon => ?_⟩
      obtain rfl : b = true := by
        simpa [has true, hbs true, hoff, eq_comm] using hon
      have hp := State.phase_of_decode hr hd
      rw [hv]
      obtain rfl | ⟨-, hb⟩ | ⟨⟨stop, ra, rfl⟩ | ⟨ra, rb, rfl⟩, hv⟩ := hi
      · cases hop with
        | phaseOp i hi => cases hi
      · cases hb
      · exact ⟨.inl hp, hv rfl⟩
      · exact ⟨.inr hp, hv rfl⟩
  · obtain ⟨es, hes, hoff, -⟩ := ht.heater
    obtain ⟨evs, hem, hno⟩ := idleTick_emitted s
    exact ⟨_, hem.append hes, fun hon => absurd hon (by simp [hno true, hoff])⟩

end Sys2Proof.Machine
end

section
/-! Two runs of the block that agree on the registers a rule has written (10_state.md R39, R40(d)): each operation, each
entry and the Idle tick keep the agreement, and emit the same events but for what is drawn. -/

namespace Sys2Proof.Machine

/-! ### Event lists of two runs -/

/-- The same events but for the writes of the display lines, and the same events altogether where `P` holds. -/
def EventsAlike (P : Prop) (evs evs' : List Event) : Prop :=
  evs.filter (fun e => !isWire e) = evs'.filter (fun e => !isWire e) ∧ (P → evs' = evs)

theorem EventsAlike.refl (P : Prop) (evs : List Event) : EventsAlike P evs evs := ⟨rfl, fun _ => rfl⟩

theorem EventsAlike.append {P : Prop} {as as' bs bs' : List Event} (ha : EventsAlike P as as')
    (hb : EventsAlike P bs bs') : EventsAlike P (as ++ bs) (as' ++ bs') :=
  ⟨by rw [List.filter_append, List.filter_append, ha.1, hb.1], fun hp => by rw [ha.2 hp, hb.2 hp]⟩

/-- Render lists are alike where their contexts are the same under `P` (43_display_dispatch.md R132). -/
theorem renderEvents_alike {P : Prop} {c c' : RenderContext} (h : P → c' = c) :
    EventsAlike P (renderEvents c) (renderEvents c') := by
  have hno : ∀ c, (renderEvents c).filter (fun e => !isWire e) = [] := fun c =>
    List.filter_eq_nil_iff.2 fun e he => by simp [renderEvents_isWire c e he]
  exact ⟨by rw [hno, hno], fun hp => by rw [h hp]⟩

/-! ### The relation between two runs -/

/-- From `s` to `t` and from `s'` to `t'` the agreement of two runs is kept, and the events are alike. -/
structure Alike (s s' t t' : State) : Prop where
  same : SameWritten t t'
  context : SameContext s s' → SameContext t t'
  events : ∃ evs evs', Emitted evs s t ∧ Emitted evs' s' t' ∧ EventsAlike (SameContext s s') evs evs'

theorem Alike.trans {s s' m m' t t' : State} (h : Alike s s' m m') (h' : Alike m m' t t') : Alike s s' t t' := by
  obtain ⟨as, as', has, has', hal⟩ := h.events
  obtain ⟨bs, bs', hbs, hbs', hbl⟩ := h'.events
  exact ⟨h'.same, fun hc => h'.context (h.context hc), _, _, has.append hbs, has'.append hbs',
    hal.append ⟨hbl.1, fun hc => hbl.2 (h.context hc)⟩⟩

/-- Two moves that emit the same events. -/
theorem Alike.of_emitted {s s' t t' : State} (evs : List Event) (same : SameWritten t t')
    (context : SameContext s s' → SameContext t t') (h : Emitted evs s t) (h' : Emitted evs s' t') : Alike s s' t t' :=
  ⟨same, context, evs, evs, h, h', .refl _ _⟩

/-! ### What follows from the agreement -/

theorem tickT_congr {s s' : State} (h : s'.env = s.env) : tickT s' = tickT s := by rw [tickT, h, tickT]
theorem tickV_congr {s s' : State} (h : s'.env = s.env) : tickV s' = tickV s := by rw [tickV, h, tickV]
theorem tickEnv_congr {s s' : State} (h : s'.env = s.env) : tickEnv s' = tickEnv s := by rw [tickEnv, h, tickEnv]
theorem tempEvents_congr {s s' : State} (h : s'.env = s.env) : tempEvents s' = tempEvents s := by
  rw [tempEvents, h, tempEvents]
theorem tickReadEvents_congr {s s' : State} (h : s'.env = s.env) : tickReadEvents s' = tickReadEvents s := by
  rw [tickReadEvents, tempEvents_congr h, h, tickReadEvents]

theorem SameWritten.fetch {s s' : State} (h : SameWritten s s') (hrom : s.rom = []) (hrom' : s'.rom = []) :
    s'.fetch = s.fetch := by
  rw [State.fetch_fixed hrom, State.fetch_fixed hrom', h.pc]

/-- After BOOT all set points agree (45_modes.md R169). -/
theorem SameWritten.sp_eq {s s' : State} (h : SameWritten s s') (h7 : 7 ≤ s.pc.toNat) : s'.sp = s.sp :=
  Vector.ext fun i hi => h.setPoints ⟨i, hi⟩ (by rw [State.loaded_five h7]; exact hi)

/-- The operations of both runs complete. -/
theorem SameWritten.completed {s s' : State} (h : SameWritten s s')
    (hsp : ∀ i : Fin 5, i.val < (completed s).loaded → s'.sp[i] = s.sp[i]) :
    SameWritten (completed s) (completed s') :=
  { h with
    pc := congrArg (· + 1) h.pc, entered := rfl, setPoints := hsp, first := nofun, target := nofun, count := nofun }

/-- The ticks of both runs end, with the countdowns at `c` and `c'`. -/
theorem SameWritten.tickEnd_count {s s' : State} (h : SameWritten s s') (he : s.entered = true) (hsp : s'.sp = s.sp)
    (done : Bool) (q q' : Port) {c c' : Byte} (hc : s.phase = .hold → c' = c) :
    SameWritten { tickEnd done s q with cnt := c } { tickEnd done s' q' with cnt := c' } := by
  cases done with
  | false =>
    exact { h with
      entered := rfl, first := fun _ _ => rfl, target := fun _ => h.target he, count := fun _ => hc }
  | true =>
    have hm : SameWritten { s with tr := .phaseComplete, first := false, cnt := c, port := q, entered := false }
        { s' with tr := .phaseComplete, first := false, cnt := c', port := q', entered := false } :=
      { h with entered := rfl, first := nofun, target := nofun, count := nofun }
    exact hm.completed fun i _ => by rw [hsp]

theorem SameWritten.tickEnd {s s' : State} (h : SameWritten s s') (he : s.entered = true) (hsp : s'.sp = s.sp)
    (done : Bool) (q q' : Port) : SameWritten (tickEnd done s q) (tickEnd done s' q') :=
  h.tickEnd_count he hsp done q q' (h.count he)

/-- The bodies of the control ticks of both runs (44_phases.md R141). -/
theorem SameWritten.tickBody {s s' : State} (h : SameWritten s s') (htgt : s'.tgt = s.tgt) (q q' : Port) :
    SameWritten (tickBody s q) (tickBody s' q') :=
  { h with
    heater := by simp only [Machine.tickBody, tickT_congr h.env, htgt]
    env := by simp only [Machine.tickBody, tickEnv_congr h.env]
    written := by simp only [Machine.tickBody, tickWritten, h.written] }

theorem SameContext.tickEnd_count {s s' : State} (hc : SameContext s s') (done : Bool) (q q' : Port) {c c' : Byte}
    (hcnt : s.written.cnt = true → c' = c) :
    SameContext { tickEnd done s q with cnt := c } { tickEnd done s' q' with cnt := c' } := { hc with cnt := hcnt }

theorem SameContext.tickEnd {s s' : State} (hc : SameContext s s') (done : Bool) (q q' : Port) :
    SameContext (tickEnd done s q) (tickEnd done s' q') := { hc with }

theorem SameContext.tickBody {s s' : State} (hc : SameContext s s') (h : SameWritten s s') (q q' : Port) :
    SameContext (tickBody s q) (tickBody s' q') :=
  { hc with t := fun _ => tickT_congr h.env, v := fun _ => tickV_congr h.env }

theorem SameWritten.coolBody {s s' : State} (h : SameWritten s s') : SameWritten (coolBody s) (coolBody s') :=
  { h with
    env := by simp only [Machine.coolBody, h.env]
    written := by simp only [Machine.coolBody, h.written] }

theorem SameContext.coolBody {s s' : State} (hc : SameContext s s') (h : SameWritten s s') :
    SameContext (coolBody s) (coolBody s') := { hc with t := fun _ => tickT_congr h.env }

/-- The events of the control ticks of both runs. -/
theorem SameWritten.tickEvents {s s' : State} (h : SameWritten s s') (hr : s.run = true) (he : s.entered = true)
    (hsp : s'.sp = s.sp) (htgt : s'.tgt = s.tgt) (op : PhaseOp) :
    EventsAlike (SameContext s s') (tickEvents op s) (tickEvents op s') := by
  unfold Machine.tickEvents
  rw [tickReadEvents_congr h.env, tickT_congr h.env, tickV_congr h.env, tickEnv_congr h.env, htgt, hsp, h.first hr he,
    h.written]
  refine ((EventsAlike.refl _ _).append (renderEvents_alike fun hc => ?_)).append (.refl _ _)
  rw [asItStands_congr hc.cnt]

/-- The context that `RENDER` sees is the same in both runs (R132). -/
theorem SameWritten.renderContext {s s' : State} (h : SameWritten s s') (hc : SameContext s s') (hr : s.run = true)
    (he : s.entered = true) (hsp : s'.sp = s.sp) (op : PhaseOp) (ra : Option (Fin 5)) :
    renderContext op ra s' = renderContext op ra s := by
  unfold Machine.renderContext
  rw [h.first hr he, h.written, hsp, asItStands_congr hc.t, asItStands_congr hc.v, asItStands_congr hc.tgt,
    asItStands_congr hc.cnt]

/-- Where both runs write one set point, the set points that agreed still do. -/
theorem set_congr {sp sp' : Vector Byte 5} {i j : Fin 5} {x : Byte} (h : j ≠ i → sp'[j] = sp[j]) :
    (sp'.set i x)[j] = (sp.set i x)[j] := by
  rw [set_getElem, set_getElem]
  split
  · rfl
  · exact h ‹_›

/-! ### The trap and the entries in both runs -/

/-- Both runs take the trap (60_exceptions.md R186). -/
theorem SameWritten.trap {s s' : State} (h : SameWritten s s') (hr : s.run = true) (hrom : s.rom = [])
    (hsp : s'.sp = s.sp) (htgt : s'.tgt = s.tgt) (hv : (tickV s).toNat < 2000) :
    Alike s s' (raiseUndervoltage { s.measure with tr := .fault })
      (raiseUndervoltage { s'.measure with tr := .fault }) := by
  have hv' : (tickV s').toNat < 2000 := by rwa [tickV_congr h.env]
  have hp : (raiseUndervoltage { s.measure with tr := .fault }).phase = .fault :=
    State.phase_faultVector (by rw [trap_eq s hv]; exact hr) (by rw [trap_eq s hv]; exact hrom) rfl
  rw [trap_eq s hv] at hp ⊢
  rw [trap_eq s' hv']
  refine .of_emitted (tickReadEvents s ++ [.heaterSet false]) ?_ ?_ (by simp [Emitted])
    (by simp [Emitted, tickReadEvents_congr h.env])
  · exact { h with
      pc := rfl, entered := rfl, heater := rfl, env := by simp only [tickEnv_congr h.env]
      written := by simp only [tickWritten, h.written]
      setPoints := fun i _ => congrArg (·[i]) hsp
      first := fun _ _ => rfl, target := fun _ _ => htgt
      count := fun _ hp' => by rw [hp] at hp'; cases hp' }
  · exact fun hc => { hc with t := fun _ => tickT_congr h.env, v := fun _ => tickV_congr h.env }

/-- Both runs enter an operation other than `HEAT` and `HOLD`. -/
theorem SameWritten.markEntered {s s' : State} (h : SameWritten s s') (h1 : s.phase ≠ .heat) (h2 : s.phase ≠ .hold) :
    Alike s s' (markEntered s) (markEntered s') :=
  .of_emitted [] { h with
    entered := rfl, first := fun _ _ => rfl, target := fun _ hp => (hp.elim h1 h2).elim
    count := fun _ hp => (h2 hp).elim } (fun hc => { hc with }) rfl rfl

/-- Both runs enter the phase operation at `PC` (44_phases.md R140). -/
theorem SameWritten.entry {i : Instr} {s s' t t' : State} (h : SameWritten s s') (hi : isPhaseOp i = true)
    (he : s.entered = false) (h7 : 7 ≤ s.pc.toNat) (hr : s.run = true) (hd : decodeOp s.fetch = .ok i)
    (hx : exec i s = .next t) (hx' : exec i s' = .next t') : Alike s s' t t' := by
  have hp := State.phase_of_decode hr hd
  have hsp := h.sp_eq h7
  have he' : s'.entered = false := h.entered.trans he
  cases i with
  | edit ra =>
    obtain ⟨-, -, ⟨-, rfl⟩ | ⟨hne, -⟩⟩ := execEdit_next hx
    · obtain ⟨-, -, ⟨-, rfl⟩ | ⟨hne, -⟩⟩ := execEdit_next hx'
      · exact h.markEntered (by simp [hp, phaseOf]) (by simp [hp, phaseOf])
      · simp [he'] at hne
    · simp [he] at hne
  | heat stop ra =>
    obtain ⟨k, hk, ⟨-, rfl⟩ | ⟨hne, -⟩ | ⟨hne, -⟩⟩ := execHeat_next hx
    · obtain ⟨k', hk', ⟨-, rfl⟩ | ⟨hne, -⟩ | ⟨hne, -⟩⟩ := execHeat_next hx'
      · obtain rfl := Option.some.inj (hk'.symm.trans hk)
        have htgt : s'.sp[k'] = s.sp[k'] := by rw [hsp]
        refine .of_emitted [] ?_ (fun hc => { hc with tgt := fun _ => htgt }) rfl rfl
        exact { h with
          entered := rfl, written := by simp only [heatEntry_written, h.written], first := fun _ _ => rfl
          target := fun _ _ => htgt, count := fun _ (hh : s.phase = .hold) => by simp [hp, phaseOf] at hh }
      all_goals simp [he'] at hne
    all_goals simp [he] at hne
  | hold ra rb =>
    obtain ⟨k, j, hk, hj, hcase⟩ := execHold_next hx
    obtain ⟨k', j', hk', hj', hcase'⟩ := execHold_next hx'
    obtain rfl := Option.some.inj (hk'.symm.trans hk)
    obtain rfl := Option.some.inj (hj'.symm.trans hj)
    have htgt : s'.sp[k'] = s.sp[k'] := by rw [hsp]
    have hcnt : s'.sp[j'] = s.sp[j'] := by rw [hsp]
    have hboth : SameWritten (holdEntry k' j' s) (holdEntry k' j' s') :=
      { h with
        entered := rfl, written := by simp only [holdEntry_written, h.written], first := fun _ _ => rfl
        target := fun _ _ => htgt, count := fun _ _ => hcnt }
    have hctx : SameContext s s' → SameContext (holdEntry k' j' s) (holdEntry k' j' s') := fun hc =>
      { hc with tgt := fun _ => htgt, cnt := fun _ => hcnt }
    obtain ⟨-, hz, -, rfl⟩ | ⟨-, hz, rfl⟩ | ⟨hne, -⟩ | ⟨hne, -⟩ := hcase
    · obtain ⟨-, -, -, rfl⟩ | ⟨-, hz', -⟩ | ⟨hne, -⟩ | ⟨hne, -⟩ := hcase'
      · exact .of_emitted [] (hboth.completed fun i _ => congrArg (·[i]) hsp) (fun hc => { hctx hc with }) rfl rfl
      · exact absurd (hcnt.trans hz) hz'
      all_goals simp [he'] at hne
    · obtain ⟨-, hz', -⟩ | ⟨-, -, rfl⟩ | ⟨hne, -⟩ | ⟨hne, -⟩ := hcase'
      · exact absurd (hcnt.symm.trans hz') hz
      · exact .of_emitted [] hboth hctx rfl rfl
      all_goals simp [he'] at hne
    all_goals simp [he] at hne
  | cool =>
    obtain ⟨-, rfl⟩ | ⟨hne, -⟩ := execCool_next hx
    · obtain ⟨-, rfl⟩ | ⟨hne, -⟩ := execCool_next hx'
      · have hm := h.markEntered (by simp [hp, phaseOf]) (by simp [hp, phaseOf])
        exact .of_emitted [.heaterSet false] { hm.same with heater := rfl } (fun hc => { hc with }) rfl rfl
      · simp [he'] at hne
    · simp [he] at hne
  | faultw =>
    obtain ⟨-, rfl⟩ | ⟨hne, -⟩ := execFaultw_next hx
    · obtain ⟨-, rfl⟩ | ⟨hne, -⟩ := execFaultw_next hx'
      · exact h.markEntered (by simp [hp, phaseOf]) (by simp [hp, phaseOf])
      · simp [he'] at hne
    · simp [he] at hne
  | _ => cases hi

/-! ### Ticks of the phase operations in both runs (44_phases.md R142 to R146) -/

section Ticks

variable {s s' t t' : State} (h : SameWritten s s') (he : s.entered = true) (h7 : 7 ≤ s.pc.toNat) (hr : s.run = true)
include h he h7 hr

theorem SameWritten.editTick {ra : BitVec 3} (hx : execEdit ra s = .next t)
    (hx' : execEdit ra s' = .next t') : Alike s s' t t' := by
  have hsp := h.sp_eq h7
  have he' := h.entered.trans he
  obtain ⟨k, hk, ⟨hne, -⟩ | ⟨-, x, hxe, done, hdone, -, q, m, rfl, hm, -, hq⟩⟩ := execEdit_next hx
  · simp [he] at hne
  · obtain ⟨k', hk', ⟨hne, -⟩ | ⟨-, x', hxe', done', hdone', -, q', m', rfl, hm', -, hq'⟩⟩ := execEdit_next hx'
    · simp [he'] at hne
    · obtain rfl := Option.some.inj (hk'.symm.trans hk)
      obtain rfl : x' = x := by rw [hxe, hxe', h.env, hsp]
      obtain rfl : done' = done := by rw [hdone, hdone', h.env]
      obtain rfl : m' = m := by rw [hm, hm', h.env]
      have hb : SameWritten
          { s with sp := s.sp.set k' x', env := { s.env.buttons.2 with cfg := m' } }
          { s' with sp := s'.sp.set k' x', env := { s'.env.buttons.2 with cfg := m' } } :=
        { h with env := by simp only [h.env], setPoints := fun j _ => by simp only [hsp] }
      refine ⟨hb.tickEnd he (by simp only [hsp]) done' q q', fun hc => { hc with }, _, _, .of_trace hq,
        .of_trace hq', ?_⟩
      rw [h.env]
      exact ((renderEvents_alike fun hc => h.renderContext hc hr he hsp _ _).append (.refl _ _)).append (.refl _ _)

theorem SameWritten.heatTick {stop : Bool} {ra : BitVec 3} (hrom : s.rom = []) (hp : s.phase = .heat)
    (hx : execHeat stop ra s = .next t) (hx' : execHeat stop ra s' = .next t') : Alike s s' t t' := by
  have hsp := h.sp_eq h7
  have he' := h.entered.trans he
  have hV := tickV_congr h.env
  have htgt := h.target he (.inl hp)
  have hdone : heatDone stop s' = heatDone stop s := by
    rw [heatDone, tickEnv_congr h.env, tickT_congr h.env, htgt, heatDone]
  obtain ⟨-, -, ⟨hne, -⟩ | ⟨-, hv, rfl⟩ | ⟨-, hv, -, q, rfl, -, hq⟩⟩ := execHeat_next hx
  · simp [he] at hne
  · obtain ⟨-, -, ⟨hne, -⟩ | ⟨-, -, rfl⟩ | ⟨-, hv', -⟩⟩ := execHeat_next hx'
    · simp [he'] at hne
    · exact h.trap hr hrom hsp htgt hv
    · exact absurd (by rwa [hV]) hv'
  · obtain ⟨-, -, ⟨hne, -⟩ | ⟨-, hv', -⟩ | ⟨-, -, -, q', rfl, -, hq'⟩⟩ := execHeat_next hx'
    · simp [he'] at hne
    · exact absurd (by rwa [hV] at hv') hv
    · rw [hdone] at hq' ⊢
      exact ⟨(h.tickBody htgt q q').tickEnd he hsp _ q q', fun hc => (hc.tickBody h q q').tickEnd _ q q', _, _,
        .of_trace hq, .of_trace hq', (h.tickEvents hr he hsp htgt .heat).append (.refl _ _)⟩

theorem SameWritten.holdTick {ra rb : BitVec 3} (hrom : s.rom = []) (hp : s.phase = .hold)
    (hx : execHold ra rb s = .next t) (hx' : execHold ra rb s' = .next t') : Alike s s' t t' := by
  have hsp := h.sp_eq h7
  have he' := h.entered.trans he
  have hV := tickV_congr h.env
  have htgt := h.target he (.inr hp)
  have hcnt := h.count he hp
  have hleft : holdLeft s' = holdLeft s := by rw [holdLeft, tickEnv_congr h.env, hcnt, holdLeft]
  have hdone : holdDone s' = holdDone s := by rw [holdDone, tickEnv_congr h.env, hleft, holdDone]
  obtain ⟨-, -, -, -, ⟨hne, -⟩ | ⟨hne, -⟩ | ⟨-, hv, rfl⟩ | ⟨-, hv, -, q, rfl, -, hq⟩⟩ := execHold_next hx
  · simp [he] at hne
  · simp [he] at hne
  · obtain ⟨-, -, -, -, ⟨hne, -⟩ | ⟨hne, -⟩ | ⟨-, -, rfl⟩ | ⟨-, hv', -⟩⟩ := execHold_next hx'
    · simp [he'] at hne
    · simp [he'] at hne
    · exact h.trap hr hrom hsp htgt hv
    · exact absurd (by rwa [hV]) hv'
  · obtain ⟨-, -, -, -, ⟨hne, -⟩ | ⟨hne, -⟩ | ⟨-, hv', -⟩ | ⟨-, -, -, q', rfl, -, hq'⟩⟩ := execHold_next hx'
    · simp [he'] at hne
    · simp [he'] at hne
    · exact absurd (by rwa [hV] at hv') hv
    · rw [tickEnv_congr h.env] at hq'
      rw [hdone]
      exact ⟨(h.tickBody htgt q q').tickEnd_count he hsp _ q q' fun _ => hleft,
        fun hc => (hc.tickBody h q q').tickEnd_count _ q q' fun _ => hleft, _, _,
        .of_trace hq, .of_trace hq', (h.tickEvents hr he hsp htgt .hold).append (.refl _ _)⟩

theorem SameWritten.coolTick (hx : execCool s = .next t) (hx' : execCool s' = .next t') : Alike s s' t t' := by
  have hsp := h.sp_eq h7
  have he' := h.entered.trans he
  obtain ⟨hne, -⟩ | ⟨-, done, hdone, -, q, rfl, -, hq⟩ := execCool_next hx
  · simp [he] at hne
  · obtain ⟨hne, -⟩ | ⟨-, done', hdone', -, q', rfl, -, hq'⟩ := execCool_next hx'
    · simp [he'] at hne
    · rw [tempEvents_congr h.env, tickT_congr h.env, h.written, hsp, h.first hr he, h.env] at hq'
      rw [h.env] at hdone'
      obtain rfl : done' = done := hdone'.trans hdone.symm
      refine ⟨h.coolBody.tickEnd he hsp done' q q', fun hc => (hc.coolBody h).tickEnd done' q q', _, _,
        .of_trace hq, .of_trace hq', ((EventsAlike.append (.refl _ _) (renderEvents_alike fun hc => ?_)).append
          (.refl _ _)).append (.refl _ _)⟩
      rw [asItStands_congr hc.v, asItStands_congr hc.tgt, asItStands_congr hc.cnt]

theorem SameWritten.faultTick (hx : execFaultw s = .next t) (hx' : execFaultw s' = .next t') : Alike s s' t t' := by
  have hsp := h.sp_eq h7
  have he' := h.entered.trans he
  obtain ⟨hne, -⟩ | ⟨-, done, hdone, -, q, rfl, -, hq⟩ := execFaultw_next hx
  · simp [he] at hne
  · obtain ⟨hne, -⟩ | ⟨-, done', hdone', -, q', rfl, -, hq'⟩ := execFaultw_next hx'
    · simp [he'] at hne
    · obtain rfl : done' = done := by rw [hdone, hdone', h.env]
      have hb : SameWritten { s with env := s.env.buttons.2 } { s' with env := s'.env.buttons.2 } :=
        { h with env := by simp only [h.env] }
      refine ⟨hb.tickEnd he hsp done' q q', fun hc => { hc with }, _, _, .of_trace hq, .of_trace hq', ?_⟩
      rw [h.env]
      exact ((renderEvents_alike fun hc => h.renderContext hc hr he hsp _ _).append (.refl _ _)).append (.refl _ _)

theorem SameWritten.tick {i : Instr} (hi : isPhaseOp i = true) (hrom : s.rom = []) (hd : decodeOp s.fetch = .ok i)
    (hx : exec i s = .next t) (hx' : exec i s' = .next t') : Alike s s' t t' := by
  have hp := State.phase_of_decode hr hd
  cases i with
  | edit ra => exact h.editTick he h7 hr hx hx'
  | heat stop ra => exact h.heatTick he h7 hr hrom hp hx hx'
  | hold ra rb => exact h.holdTick he h7 hr hrom hp hx hx'
  | cool => exact h.coolTick he h7 hr hx hx'
  | faultw => exact h.faultTick he h7 hr hx hx'
  | _ => cases hi

end Ticks

/-! ### A step in both runs -/

/-- Both runs run the operation at `PC`. -/
theorem SameWritten.exec {i : Instr} {s s' t t' : State} (h : SameWritten s s') (hop : RomOp s.pc i)
    (hr : s.run = true) (hrom : s.rom = []) (hd : decodeOp s.fetch = .ok i) (hx : exec i s = .next t)
    (hx' : exec i s' = .next t') : Alike s s' t t' := by
  cases hop with
  | dinit hpc =>
    obtain ⟨-, rfl⟩ := completeOp_next hx
    obtain ⟨-, rfl⟩ := completeOp_next hx'
    have hm : SameWritten (s.onPort Port.bringUp) (s'.onPort Port.bringUp) := { h with }
    exact .of_emitted [.dispInit]
      (hm.completed fun i hi => absurd hi (by simp [State.loaded, Machine.completed, hpc, hr]))
      (fun hc => { hc with }) rfl rfl
  | loadsp ra hra h5 =>
    obtain ⟨k, hk, rfl⟩ := execLoadsp_next hx
    obtain ⟨k', hk', rfl⟩ := execLoadsp_next hx'
    obtain rfl := Option.some.inj (hk'.symm.trans hk)
    have hb : s'.env.cfg.read k' = s.env.cfg.read k' := by rw [h.env]
    have hkpc : s.pc.toNat = k'.val + 1 := by rw [← hra, setPointIndex_eq hk]
    rw [hb]
    have hm : SameWritten ((s.cfgLoad k').2.setSp k' (validated k' (s.env.cfg.read k')))
        ((s'.cfgLoad k').2.setSp k' (validated k' (s.env.cfg.read k'))) :=
      { h with setPoints := fun j hj => set_congr fun _ => h.setPoints j hj }
    exact .of_emitted [.cfgLoad k'.val (s.env.cfg.read k')]
      (hm.completed fun j hj => set_congr fun hjk => h.setPoints j (loaded_of_completed hr hkpc hj hjk))
      (fun hc => { hc with }) rfl (by rw [← hb]; rfl)
  | endOp h6 =>
    rw [next_inj hx, next_inj hx']
    refine .of_emitted [] { h with
      run := rfl, entered := rfl, setPoints := fun i _ => h.setPoints i ?_
      first := nofun, target := nofun, count := nofun } (fun hc => { hc with }) rfl rfl
    rw [State.loaded]
    split <;> omega
  | phaseOp i hi h7 =>
    cases he : s.entered with
    | false => exact h.entry hi he h7 hr hd hx hx'
    | true => exact h.tick he h7 hr hi hrom hd hx hx'

theorem MidInv.rom {s : State} (h : MidInv s) : s.rom = [] := h.elim (·.rom) (·.2.2.rom)

theorem MidInv.romOp {s : State} {i : Instr} (h : MidInv s) (hr : s.run = true) (hd : decodeOp s.fetch = .ok i) :
    RomOp s.pc i := h.elim (·.romOp hr hd) (·.2.2.romOp hr hd)

/-- Both runs end their step with the same entries. -/
theorem Enters.alike {s s' t t' : State} (ht : Enters s t) (ht' : Enters s' t') (hm : MidInv s) (hm' : MidInv s')
    (h : SameWritten s s') : Alike s s' t t' := by
  induction ht generalizing s' with
  | done hs =>
    cases ht' with
    | done => exact .of_emitted [] h id rfl rfl
    | entry hr' he' hd' hi' =>
      rw [h.fetch hm.rom hm'.rom] at hd'
      rw [hs (h.run.symm.trans hr') (h.entered.symm.trans he') _ hd'] at hi'
      cases hi'
  | entry hr he hd hi hx _ ih =>
    have hr' := h.run.trans hr
    have he' := h.entered.trans he
    have hd' := (congrArg decodeOp (h.fetch hm.rom hm'.rom)).trans hd
    cases ht' with
    | done hs' =>
      rw [hs' hr' he' _ hd'] at hi
      cases hi
    | entry _ _ hj _ hy ht' =>
      obtain rfl := Except.ok.inj (hj.symm.trans hd')
      have hal := h.exec (hm.romOp hr hd) hr hm.rom hd hx hy
      exact hal.trans (ih ht' (hm.entry hr he hd hi hx) (hm'.entry hr' he' hd' hi hy) hal.same)

/-- Both runs run an Idle tick (45_modes.md R165). -/
theorem SameWritten.idleTick {s s' : State} (h : SameWritten s s') (hr : s.run = false) :
    Alike s s' (idleTick s) (idleTick s') := by
  have hmode : s'.env.mode = s.env.mode := by rw [h.env]
  have hsp : ∀ i : Fin 5, s'.sp[i] = s.sp[i] := fun i => h.setPoints i (by simp [State.loaded, hr])
  have henv : s'.pollMode.2.env = s.pollMode.2.env := by rw [State.pollMode_env, hmode, State.pollMode_env]
  unfold Machine.idleTick
  simp only [State.pollMode_answer, hmode]
  cases s.env.mode.1 with
  | none =>
    exact .of_emitted [.pollMode s.env.mode.1, .delayTick] { h with env := henv } (fun hc => { hc with }) rfl
      (by simp [Emitted, hmode])
  | normal =>
    exact .of_emitted [.pollMode s.env.mode.1]
      { h with
        pc := rfl, run := rfl, entered := rfl, env := henv, setPoints := fun i _ => hsp i
        first := nofun, target := nofun, count := nofun } (fun hc => { hc with }) rfl (by simp [Emitted, hmode])
  | curve =>
    exact .of_emitted [.pollMode s.env.mode.1]
      { h with
        pc := rfl, run := rfl, entered := rfl, env := henv, setPoints := fun i _ => hsp i
        first := nofun, target := nofun, count := nofun } (fun hc => { hc with }) rfl (by simp [Emitted, hmode])

/-- Settles O60: every part of a step keeps the agreement of the two runs. -/
theorem unwrittenRegistersAreNotRead : Obligations.UnwrittenRegistersAreNotRead := by
  intro s s' t t' hi hi' h hs hs'
  suffices hal : Alike s s' t t' from ⟨hal.same, hal.context, hal.events⟩
  obtain ⟨i, m, hr, hd, hop, hx, ht⟩ | ⟨hr, ht⟩ := step_next hi hs
  · obtain ⟨j, m', hr', hd', -, hx', ht'⟩ | ⟨hr', -⟩ := step_next hi' hs'
    · obtain rfl := Except.ok.inj ((hd'.symm.trans (congrArg decodeOp (h.fetch hi.rom hi'.rom))).trans hd)
      have hal := h.exec hop hr hi.rom hd hx hx'
      exact hal.trans (ht.alike ht' (hi.exec hr hd hx) (hi'.exec hr' hd' hx') hal.same)
    · simp [h.run, hr] at hr'
  · obtain ⟨j, m', hr', -⟩ | ⟨hr', ht'⟩ := step_next hi' hs'
    · simp [h.run, hr] at hr'
    · have hal := h.idleTick hr
      exact hal.trans (ht.alike ht' (.inl (hi.idleTick hr)) (.inl (hi'.idleTick hr')) hal.same)

end Sys2Proof.Machine
end

section
/-! The persistent store and the sequencer ROM (20_memory.md R51, R53, R62, R65), and codes placed from outside (log 5,
log 24). -/

namespace Sys2Proof.Machine

/-- The readings of a control tick leave the persistent store alone. -/
@[simp] theorem tickEnv_cfg (s : State) : (tickEnv s).cfg = s.env.cfg := by simp [tickEnv]

@[simp] theorem tickEnd_env (done : Bool) (s : State) (q : Port) : (tickEnd done s q).env = s.env := rfl
@[simp] theorem tickBody_cfg (s : State) (q : Port) : (tickBody s q).env.cfg = s.env.cfg := by simp [tickBody]

/-- What an operation does to the memories: the ROM stays, and the persistent store stays or `EDIT` stores one byte (R62,
R65). -/
structure MemoryEffect (i : Instr) (s t : State) : Prop where
  rom : t.rom = s.rom
  store : t.env.cfg = s.env.cfg ∨ ∃ ra slot b, i = .edit ra ∧ t.env.cfg = s.env.cfg.write slot b

/-- The trap touches no memory (60_exceptions.md R186). -/
theorem memoryEffect_trap (i : Instr) {s : State} (hv : (tickV s).toNat < 2000) :
    MemoryEffect i s (raiseUndervoltage { s.measure with tr := .fault }) := by
  rw [trap_eq s hv]
  exact ⟨rfl, .inl (tickEnv_cfg s)⟩

/-- Every operation keeps the ROM, and the persistent store too but for the store of `EDIT` (44_phases.md R146). -/
theorem exec_memoryEffect {i : Instr} {s t : State} (h : exec i s = .next t) : MemoryEffect i s t := by
  cases i with
  | setcur row col =>
    simp only [exec, execSetcur] at h
    split at h
    · rw [next_inj h]; exact ⟨rfl, .inl rfl⟩
    · cases h
  | putch c =>
    simp only [exec, execPutch] at h
    split at h
    · rw [next_inj h]; exact ⟨rfl, .inl rfl⟩
    · cases h
  | dinit =>
    obtain ⟨-, rfl⟩ := completeOp_next h
    exact ⟨rfl, .inl rfl⟩
  | rdtemp =>
    rw [next_inj h, State.readTemperature_eq]
    exact ⟨rfl, .inl (by simp)⟩
  | rdvolt =>
    rw [next_inj h, State.readVoltage_eq]
    exact ⟨rfl, .inl (by simp)⟩
  | edit ra =>
    obtain ⟨k, -, ⟨-, rfl⟩ | ⟨-, x, -, done, -, -, q, m, rfl, hm, -⟩⟩ := execEdit_next h
    · exact ⟨rfl, .inl rfl⟩
    · cases done with
      | false => exact ⟨rfl, .inl hm⟩
      | true => exact ⟨rfl, .inr ⟨ra, k, x, rfl, hm⟩⟩
  | heat stop ra =>
    obtain ⟨k, -, ⟨-, rfl⟩ | ⟨-, hv, rfl⟩ | ⟨-, -, -, q, rfl, -⟩⟩ := execHeat_next h
    · exact ⟨rfl, .inl rfl⟩
    · exact memoryEffect_trap _ hv
    · exact ⟨rfl, .inl (by simp)⟩
  | hold ra rb =>
    obtain ⟨k, j, -, -, ⟨-, -, -, rfl⟩ | ⟨-, -, rfl⟩ | ⟨-, hv, rfl⟩ | ⟨-, -, -, q, rfl, -⟩⟩ := execHold_next h
    · exact ⟨rfl, .inl rfl⟩
    · exact ⟨rfl, .inl rfl⟩
    · exact memoryEffect_trap _ hv
    · exact ⟨rfl, .inl (by simp)⟩
  | cool =>
    obtain ⟨-, rfl⟩ | ⟨-, done, -, -, q, rfl, -⟩ := execCool_next h
    · exact ⟨rfl, .inl rfl⟩
    · exact ⟨rfl, .inl (by simp)⟩
  | faultw =>
    obtain ⟨-, rfl⟩ | ⟨-, done, -, -, q, rfl, -⟩ := execFaultw_next h
    · exact ⟨rfl, .inl rfl⟩
    · exact ⟨rfl, .inl (Env.buttons_cfg _)⟩
  | loadsp ra =>
    obtain ⟨k, -, rfl⟩ := execLoadsp_next h
    exact ⟨rfl, .inl rfl⟩
  | _ => rw [next_inj h]; exact ⟨rfl, .inl rfl⟩

/-- Settles O48: the store is the one before, or that after one store. -/
theorem operationsKeepStoreForm : Obligations.OperationsKeepStoreForm := by
  intro i s t hwf h
  obtain hcfg | ⟨-, slot, b, -, hcfg⟩ := (exec_memoryEffect h).store
  · rw [hcfg]; exact hwf
  · rw [hcfg]; exact Memory.write_wf _ slot b hwf

/-- Settles O47: `CFG` reads back what was written, and reset leaves the environment, which holds it, alone. -/
theorem storeThenLoadReturnsValue : Obligations.StoreThenLoadReturnsValue := fun i j x s =>
  ⟨Memory.read_write_same s.env.cfg i x, Memory.read_write_same s.env.cfg i x,
    fun hij => Memory.read_write_other s.env.cfg i j x hij.symm⟩

/-! ### The ROM along a step -/

/-- The entries that end a step keep the ROM. -/
theorem Enters.rom {s t : State} (h : Enters s t) : t.rom = s.rom := by
  induction h with
  | done => rfl
  | entry _ _ _ _ hx _ ih => exact ih.trans (exec_memoryEffect hx).rom

theorem enterFetched_rom {s t : State} (h : enterFetched entryRounds s = .next t) : t.rom = s.rom :=
  (enterFetched_next _ (Nat.le_add_right _ _) h).rom

theorem afterOp_rom {i : Instr} {s t : State} (h : afterOp i s = .next t) : t.rom = s.rom := by
  unfold afterOp at h
  split at h
  · exact enterFetched_rom h
  · obtain ⟨m, hm, h⟩ := andThen_eq_next h
    obtain ⟨-, rfl⟩ := completeOp_next hm
    exact (enterFetched_rom h :)

theorem idleTick_rom (s : State) : (idleTick s).rom = s.rom := by
  unfold idleTick
  split <;> rfl

/-- Every step keeps the ROM: a code in the framer's slot, the operation at `PC`, or an Idle tick. -/
theorem step_rom {s t : State} (h : step s = .next t) : t.rom = s.rom := by
  unfold step runStep at h
  split at h
  · unfold runDirect at h
    split at h
    · cases h
    · exact (exec_memoryEffect h).rom
  · split at h
    · unfold runOp at h
      split at h
      · cases h
      · obtain ⟨m, hx, hm⟩ := andThen_eq_next h
        exact (afterOp_rom hm).trans (exec_memoryEffect hx).rom
    · exact (enterFetched_rom h).trans (idleTick_rom s)

/-- Settles O46: no operation writes the ROM, and a step is made of operations and of what keeps it. -/
theorem romIsNeverWritten : Obligations.RomIsNeverWritten :=
  ⟨fun _ _ _ h => (exec_memoryEffect h).rom, fun _ _ h => step_rom h⟩

/-! ### Codes placed from outside -/

/-- A step where a pipeline runs and the word at `PC` decodes (44_phases.md R140). -/
theorem step_of_decode {s : State} {i : Instr} (hdirect : s.direct = none) (hr : s.run = true)
    (hd : decodeOp s.fetch = .ok i) : step s = andThen (exec i s) (afterOp i) := by
  simp [step, runStep, runOp, hdirect, hr, hd]

/-- A step on a code in the framer's slot (log 5). -/
theorem step_of_direct {s : State} {c : LinkCode} {i : Instr} (hc : s.direct = some c) (hd : decodeLink c = .ok i) :
    step s = exec i { s with direct := none } := by
  simp [step, runStep, runDirect, hc, hd]

/-- A placed op word is the word that is fetched (log 24). -/
theorem State.fetch_place {s : State} (w : OpWord) (hwf : s.rom.wf = true) : (s.place (.op w)).fetch = w := by
  simp [State.fetch, State.place, RomPatch.read_write _ _ _ _ hwf]

/-- A number that a row of 16 bits decodes is an op word, and is placed as one. -/
theorem withFetchWord_of_decode {w : Nat} {i : Instr} (h : decodeTableWord 16 w = some i) :
    decodeOp (BitVec.ofNat 16 w) = .ok i ∧
      ∀ s : State, s.withFetchWord 16 w = s.place (.op (BitVec.ofNat 16 w)) := by
  by_cases hw : w < 2 ^ 16
  · have hcode : tableCode 16 w = some (.op (BitVec.ofNat 16 w)) := by rw [tableCode, if_pos hw]
    refine ⟨?_, fun s => by rw [State.withFetchWord, hcode]⟩
    simp only [decodeTableWord, hcode, decode] at h
    cases hd : decodeOp (BitVec.ofNat 16 w) with
    | ok j => rw [hd] at h; exact congrArg _ (Option.some.inj h)
    | error d => rw [hd] at h; cases h
  · rw [decodeTableWord, tableCode, if_neg hw] at h
    cases h

/-- Settles O51: the word placed at `PC` is what the next step fetches, and a code in the framer's slot goes first. -/
theorem placedCodeIsRun : Obligations.PlacedCodeIsRun := by
  refine ⟨fun s w i hwf hw => ?_, fun s c i => step_of_direct⟩
  obtain ⟨hd, hplace⟩ := withFetchWord_of_decode hw
  rw [hplace]
  refine ⟨step_of_decode rfl rfl ?_, rfl, rfl, rfl⟩
  rw [State.fetch_place _ hwf]
  exact hd

end Sys2Proof.Machine
end

section
/-! Decoding and encoding, each the other's inverse on legal operands (30_encoding.md R71 to R77, R82), the illegal
words (R74), the fixed ROM (R81), and the bytes and operands that the encoding fixes. -/

namespace Sys2Proof

/-! ### A code and its parts -/

/-- A vector is the parts `x`, `y` in a row exactly when it reads as `x` above and as `y` below. -/
theorem append_eq_iff_extractLsb' {m n : Nat} (x : BitVec m) (y : BitVec n) (b : BitVec (m + n)) :
    x ++ y = b ↔ b.extractLsb' n m = x ∧ b.extractLsb' 0 n = y := by
  constructor
  · rintro rfl
    exact ⟨BitVec.extractLsb'_append_eq_left, BitVec.extractLsb'_append_eq_right⟩
  · rintro ⟨rfl, rfl⟩
    rw [BitVec.extractLsb'_append_extractLsb'_eq_extractLsb' (Nat.zero_add n).symm, BitVec.extractLsb'_eq_self]

/-- The parts in a row as the number that they spell. -/
theorem append_eq_ofNat {m n : Nat} (x : BitVec m) (y : BitVec n) :
    x ++ y = BitVec.ofNat (m + n) (x.toNat * 2 ^ n + y.toNat) := by
  rw [← Nat.shiftLeft_eq, Nat.shiftLeft_add_eq_or_of_lt y.isLt, ← BitVec.toNat_append, BitVec.ofNat_toNat,
    BitVec.setWidth_eq]

/-- The lowest bit as a vector of its own. -/
theorem extractLsb'_zero_one {w : Nat} (b : BitVec w) : b.extractLsb' 0 1 = BitVec.ofBool (b.getLsbD 0) := by
  apply BitVec.eq_of_getLsbD_eq
  intro i hi
  obtain rfl : i = 0 := by omega
  simp

theorem headerByte_eq_iff (addr : BitVec 7) (stream : Bool) (b : Byte) :
    headerByte addr stream = b ↔ b.extractLsb' 1 7 = addr ∧ b.getLsbD 0 = stream := by
  rw [headerByte, append_eq_iff_extractLsb', extractLsb'_zero_one, BitVec.ofBool_eq_iff_eq]

theorem pageByte_eq_iff (row : BitVec 3) (b : Byte) :
    pageByte row = b ↔ b.extractLsb' 3 5 = 0b10110#5 ∧ b.extractLsb' 0 3 = row := append_eq_iff_extractLsb' ..

theorem colHighByte_eq_iff (high : BitVec 4) (b : Byte) :
    colHighByte high = b ↔ b.extractLsb' 4 4 = 0b0001#4 ∧ b.extractLsb' 0 4 = high := append_eq_iff_extractLsb' ..

theorem colLowByte_eq_iff (low : BitVec 4) (b : Byte) :
    colLowByte low = b ↔ b.extractLsb' 4 4 = 0b0000#4 ∧ b.extractLsb' 0 4 = low := append_eq_iff_extractLsb' ..

theorem framePulses_eq_iff (v : Byte) (p : BitVec 9) :
    framePulses v = p ↔ p.extractLsb' 1 8 = v ∧ p.getLsbD 0 = true := by
  rw [framePulses, append_eq_iff_extractLsb', extractLsb'_zero_one]
  exact and_congr_right' (BitVec.ofBool_eq_iff_eq (b' := true))

/-- `HOLD`'s duration register stands in `imm8[2:0]` with `imm8[7:3]` zero (R71). -/
theorem setWidth_eq_iff_rbField (rb : BitVec 3) (imm : Byte) :
    rb.setWidth 8 = imm ↔ imm.extractLsb' 3 5 = 0 ∧ rbField imm = rb := by
  rw [show rb.setWidth 8 = 0#5 ++ rb from BitVec.setWidth_eq_append (by omega), append_eq_iff_extractLsb', rbField]
  rfl

theorem setWidth_rbField {imm : Byte} (h : imm.extractLsb' 3 5 = 0) : (rbField imm).setWidth 8 = imm :=
  (setWidth_eq_iff_rbField _ _).2 ⟨h, rfl⟩

/-! ### Op words (R71 to R74) -/

/-- The code of an operation spells it and has zero in every field that the operation does not use. -/
theorem fields_of_encodeOp {i : Instr} {w : OpWord} (h : encodeOp i = some w) :
    fieldsInstr (opField w) (sField w) (raField w) (immField w) = some i ∧
      unusedFieldsZero (opField w) (sField w) (raField w) (immField w) = true := by
  cases i with
  | hold ra rb =>
    obtain rfl := Option.some.inj h
    obtain ⟨hhigh, hrb⟩ := (setWidth_eq_iff_rbField rb _).1 rfl
    simp [fieldsInstr, unusedFieldsZero, hhigh, hrb]
  | hdr | cmdPage | cmdColh | cmdColl | data | txbit | txbyte => cases h
  | _ =>
    obtain rfl := Option.some.inj h
    simp [fieldsInstr, unusedFieldsZero]

/-- What the fields spell, where the unused ones are zero, has the word of those fields as its code: row by row of R72, the
operation code is the row's and the must-be-zero fields are those that `encodeOp` writes as 0. -/
theorem encodeOp_of_fields {op : BitVec 4} {s : Bool} {ra : BitVec 3} {imm : Byte} {i : Instr}
    (hi : fieldsInstr op s ra imm = some i) (hz : unusedFieldsZero op s ra imm = true) :
    encodeOp i = some (mkWord op s ra imm) := by
  have hop {n : Nat} (h : op.toNat = n) : op = BitVec.ofNat 4 n := by rw [← h, BitVec.ofNat_toNat, BitVec.setWidth_eq]
  unfold fieldsInstr at hi
  split at hi <;> cases hi
  all_goals
    rename_i h
    obtain rfl := hop h
    simp [unusedFieldsZero] at hz
    simp [hz, encodeOp, setWidth_rbField]

/-- A word decodes to an operation exactly when it is the operation's code and the operands are legal (R72 to R74). -/
theorem decodeOp_eq_ok_iff_encodeOp (w : OpWord) (i : Instr) :
    decodeOp w = .ok i ↔ encodeOp i = some w ∧ i.wellFormed = true := by
  rw [decodeOp_eq_ok]
  constructor
  · rintro ⟨hi, hz, hwf⟩
    exact ⟨by rw [encodeOp_of_fields hi hz, mkWord_fields], hwf⟩
  · rintro ⟨hw, hwf⟩
    obtain ⟨hi, hz⟩ := fields_of_encodeOp hw
    exact ⟨hi, hz, hwf⟩

/-! ### Codes of the wire level (R75 to R77, R82) -/

/-- What a byte of a command stream decodes to has that byte as its code (R76). -/
theorem encodeLink_of_decodeCommand {b : Byte} {i : Instr} (h : decodeCommand b = .ok i) :
    encodeLink i = some (.byte .command b) := by
  unfold decodeCommand at h
  split at h
  next hpage => cases h; rw [encodeLink, (pageByte_eq_iff _ b).2 ⟨eq_of_beq hpage, rfl⟩]
  split at h
  next hhigh => cases h; rw [encodeLink, (colHighByte_eq_iff _ b).2 ⟨eq_of_beq hhigh, rfl⟩]
  split at h
  next hlow => cases h; rw [encodeLink, (colLowByte_eq_iff _ b).2 ⟨eq_of_beq hlow, rfl⟩]
  cases h

theorem decodeCommand_pageByte (row : BitVec 3) : decodeCommand (pageByte row) = .ok (.cmdPage row) := by
  obtain ⟨hpage, hrow⟩ := (pageByte_eq_iff row _).1 rfl
  simp [decodeCommand, hpage, hrow]

/-- The fixed bits of the three command bytes tell them apart (R76). -/
theorem decodeCommand_colHighByte (high : BitVec 4) : decodeCommand (colHighByte high) = .ok (.cmdColh high) := by
  revert high; decide

theorem decodeCommand_colLowByte (low : BitVec 4) : decodeCommand (colLowByte low) = .ok (.cmdColl low) := by
  revert low; decide

/-- A code of the wire level decodes to an operation exactly when it is that operation's code. -/
theorem decodeLink_eq_ok_iff (c : LinkCode) (i : Instr) : decodeLink c = .ok i ↔ encodeLink i = some c := by
  constructor
  · intro h
    cases c with
    | byte role b =>
      cases role with
      | header => cases h; rw [encodeLink, (headerByte_eq_iff _ _ b).2 ⟨rfl, rfl⟩]
      | command => exact encodeLink_of_decodeCommand h
      | data => cases h; rfl
    | pulse b => cases h; rfl
    | frame p =>
      simp only [decodeLink] at h
      split at h
      next hreleased => cases h; rw [encodeLink, (framePulses_eq_iff _ p).2 ⟨rfl, hreleased⟩]
      cases h
  · intro h
    cases i with
    | hdr addr stream =>
      obtain ⟨haddr, hstream⟩ := (headerByte_eq_iff addr stream _).1 rfl
      cases h; rw [decodeLink, haddr, hstream]
    | cmdPage row => cases h; exact decodeCommand_pageByte row
    | cmdColh high => cases h; exact decodeCommand_colHighByte high
    | cmdColl low => cases h; exact decodeCommand_colLowByte low
    | txbyte v =>
      obtain ⟨hv, hreleased⟩ := (framePulses_eq_iff v _).1 rfl
      cases h; rw [decodeLink, if_pos hreleased, hv]
    | data | txbit => cases h; rfl
    | _ => cases h

/-- Every operand of a wire-level row is legal (R75 to R77, R82). -/
theorem wellFormed_of_encodeLink {i : Instr} {c : LinkCode} (h : encodeLink i = some c) : i.wellFormed = true := by
  cases i <;> cases h <;> rfl

/-! ### Codes of either level -/

theorem encode_eq_op_iff (i : Instr) (w : OpWord) : encode i = .op w ↔ encodeOp i = some w := by
  obtain ⟨v, hv, -, he⟩ | ⟨c, ho, -, he⟩ := Laws.encode_total i <;> simp [*]

theorem encode_eq_link_iff (i : Instr) (c : LinkCode) : encode i = .link c ↔ encodeLink i = some c := by
  obtain ⟨v, -, hl, he⟩ | ⟨d, -, hl, he⟩ := Laws.encode_total i <;> simp [*]

/-- A code decodes to an instruction exactly when it is that instruction's code and the operands are legal. -/
theorem decode_eq_ok_iff (c : Code) (i : Instr) : decode c = .ok i ↔ encode i = c ∧ i.wellFormed = true := by
  cases c with
  | op w => rw [decode, decodeOp_eq_ok_iff_encodeOp, encode_eq_op_iff]
  | link c =>
    rw [decode, decodeLink_eq_ok_iff, encode_eq_link_iff]
    exact (and_iff_left_of_imp wellFormed_of_encodeLink).symm

/-- Settles O2: decoding is inverse to encoding where the operands are legal. -/
theorem decodeEncodeAgree : Obligations.DecodeEncodeAgree := fun i hwf => (decode_eq_ok_iff _ i).2 ⟨rfl, hwf⟩

/-- Settles O3, by the same equivalence read the other way. -/
theorem encodeDecodeAgree : Obligations.EncodeDecodeAgree := fun c i => (decode_eq_ok_iff c i).1

/-! ### Illegal words (R74, 60_exceptions.md R183) -/

theorem sField_toNat (w : OpWord) : (sField w).toNat = w.toNat / 2048 % 2 := Nat.toNat_testBit w.toNat 11

theorem opField_toNat (w : OpWord) : (opField w).toNat = w.toNat / 4096 := by
  rw [opField, BitVec.extractLsb'_toNat, Nat.shiftRight_eq_div_pow]
  omega

theorem raField_toNat (w : OpWord) : (raField w).toNat = w.toNat / 256 % 8 := by
  rw [raField, BitVec.extractLsb'_toNat, Nat.shiftRight_eq_div_pow]

theorem immField_toNat (w : OpWord) : (immField w).toNat = w.toNat % 256 := BitVec.extractLsb'_toNat 0 8 w

theorem rbField_toNat (imm : Byte) : (rbField imm).toNat = imm.toNat % 8 := BitVec.extractLsb'_toNat 0 3 imm

/-- `imm8[7:3]` is zero exactly below 8. -/
theorem extractLsb'_three_five_eq_zero (imm : Byte) : imm.extractLsb' 3 5 = 0#5 ↔ imm.toNat < 8 := by
  rw [← BitVec.toNat_inj, BitVec.extractLsb'_toNat, Nat.shiftRight_eq_div_pow, BitVec.toNat_ofNat]
  omega

section Fields

variable (op : BitVec 4) (s : Bool) (ra : BitVec 3) (imm : Byte)

/-- Only the code 0 spells nothing (R72). -/
theorem fieldsInstr_eq_none_iff : fieldsInstr op s ra imm = none ↔ op.toNat = 0 := by
  have hop := op.isLt
  unfold fieldsInstr
  split <;> grind

/-- A must-be-zero field that is not zero, on the fields as numbers (R71, R74). -/
theorem unusedFieldsZero_eq_false_iff :
    unusedFieldsZero op s ra imm = false ↔
      (s.toNat ≠ 0 ∧ op.toNat ≠ 9) ∨
      (ra.toNat ≠ 0 ∧ op.toNat ≠ 1 ∧ op.toNat ≠ 8 ∧ op.toNat ≠ 9 ∧ op.toNat ≠ 10 ∧ op.toNat ≠ 14) ∨
      (imm.toNat ≠ 0 ∧ op.toNat ≠ 1 ∧ op.toNat ≠ 2 ∧ op.toNat ≠ 10) ∨
      (op.toNat = 10 ∧ 8 ≤ imm.toNat) := by
  have hs : s = false ↔ s.toNat = 0 := by cases s <;> decide
  have hra : ra = 0#3 ↔ ra.toNat = 0 := BitVec.toNat_inj.symm
  have himm : imm = 0#8 ↔ imm.toNat = 0 := BitVec.toNat_inj.symm
  have hhigh := extractLsb'_three_five_eq_zero imm
  unfold unusedFieldsZero
  split <;> grind

variable {op s ra imm}

/-- Which operands of the operation that the fields spell are out of range (R73, R74). -/
theorem wellFormed_eq_false_iff_fields {i : Instr} (h : fieldsInstr op s ra imm = some i) :
    i.wellFormed = false ↔
      ((op.toNat = 8 ∨ op.toNat = 14) ∧ 5 ≤ ra.toNat) ∨
      ((op.toNat = 9 ∨ op.toNat = 10) ∧ 3 ≤ ra.toNat) ∨
      (op.toNat = 10 ∧ imm.toNat % 8 ≠ 3 ∧ imm.toNat % 8 ≠ 4) ∨
      (op.toNat = 1 ∧ 127 < imm.toNat) ∨
      (op.toNat = 2 ∧ (imm.toNat < 32 ∨ 126 < imm.toNat)) := by
  unfold fieldsInstr at h
  split at h <;> cases h
  all_goals
    simp only [Instr.wellFormed, Instr.defect, rbField_toNat]
    grind

end Fields

/-- Where the fields spell an operation, the decoder rejects the word for a must-be-zero field or for an operand. -/
theorem decodeOp_ne_ok_iff_of_fields {w : OpWord} {i : Instr}
    (hi : fieldsInstr (opField w) (sField w) (raField w) (immField w) = some i) :
    (∀ j, decodeOp w ≠ .ok j) ↔
      unusedFieldsZero (opField w) (sField w) (raField w) (immField w) = false ∨ i.wellFormed = false := by
  simp only [ne_eq, decodeOp_eq_ok, hi, Option.some.injEq, not_and, forall_eq', Bool.not_eq_true,
    ← Bool.not_eq_false (unusedFieldsZero _ _ _ _), or_iff_not_imp_left]

/-- The list of R74 is: the code 0, a must-be-zero field that is not zero, or an operand out of range. -/
theorem wordIllegal_iff (w : OpWord) : Machine.wordIllegal w ↔ ∀ i, decodeOp w ≠ .ok i := by
  have hnone := fieldsInstr_eq_none_iff (opField w) (sField w) (raField w) (immField w)
  simp only [Machine.wordIllegal, ← opField_toNat, ← sField_toNat, ← raField_toNat, ← immField_toNat]
  cases hi : fieldsInstr (opField w) (sField w) (raField w) (immField w) with
  | none => simp [hnone.1 hi, decodeOp_eq_ok, hi]
  | some i =>
    have hop : (opField w).toNat ≠ 0 := fun h => by simp [hnone.2 h] at hi
    rw [decodeOp_ne_ok_iff_of_fields hi, unusedFieldsZero_eq_false_iff, wellFormed_eq_false_iff_fields hi]
    simp only [hop, false_or, or_assoc]

/-- A defect of the operands is one of R183's three. -/
theorem Instr.defect_eq_some {i : Instr} {d : Defect} (h : i.defect = some d) :
    d = .illegalOp ∨ d = .badChar ∨ d = .badColumn := by
  unfold Instr.defect at h
  split at h <;> grind

/-- The decoder rejects an op word by one of R183's three names. -/
theorem decodeOp_eq_error {w : OpWord} {d : Defect} (h : decodeOp w = .error d) :
    d = .illegalOp ∨ d = .badChar ∨ d = .badColumn := by
  unfold decodeOp at h
  split at h
  · cases h; exact .inl rfl
  split at h
  · split at h
    · cases h
    · rename_i hd
      cases h
      exact Instr.defect_eq_some hd
  · cases h; exact .inl rfl

namespace Machine

/-- A step that fetches a word the decoder rejects is refused by the name of the defect (R74). -/
theorem step_of_decode_error {s : State} {d : Defect} (hdirect : s.direct = none) (hr : s.run = true)
    (hd : decodeOp s.fetch = .error d) : step s = .refused (refusalOf d) := by
  simp [step, runStep, runOp, hdirect, hr, hd]

/-- Settles O4: an illegal word decodes to nothing, and each defect of an op word has its name in R183. -/
theorem illegalWordsAreRefused : Obligations.IllegalWordsAreRefused := by
  refine ⟨fun w => (wordIllegal_iff w).symm, fun s hdirect hr hill => ?_⟩
  cases hd : decodeOp s.fetch with
  | ok i => exact absurd hd ((wordIllegal_iff _).1 hill i)
  | error d =>
    rw [step_of_decode_error hdirect hr hd]
    obtain rfl | rfl | rfl := decodeOp_eq_error hd
    · exact .inl rfl
    · exact .inr (.inl rfl)
    · exact .inr (.inr rfl)

/-! ### Words written out (95_test_vectors.md B7) and the fixed ROM (R81) -/

/-- Settles O1: each word is evaluated. -/
theorem specWordsDecode : Obligations.SpecWordsDecode := by
  unfold Obligations.SpecWordsDecode
  decide

/-- The words between the pipelines and after the last one are 0 (R81). -/
theorem romWord_unused {a : Nat} (h : (9 ≤ a ∧ a ≤ 15) ∨ a = 30 ∨ a = 31) : romWord a = 0 := by
  obtain ⟨hlo, hhi⟩ | rfl | rfl := h
  · interval_cases a <;> rfl
  · rfl
  · rfl

/-- Settles O5: the pipelines are evaluated word by word, and the unused words are the illegal word 0. -/
theorem romHoldsPipelines : Obligations.RomHoldsPipelines := by
  refine ⟨rfl, by decide, by decide, by decide, by decide, fun a ha => ?_⟩
  rw [romWord_unused ha]
  rfl

/-! ### The bytes of the wire rows as numbers (R75 to R77) -/

theorem headerByte_eq_ofNat (addr : BitVec 7) (stream : Bool) :
    headerByte addr stream = BitVec.ofNat 8 (addr.toNat * 2 + stream.toNat) := by
  rw [← BitVec.toNat_ofBool]
  exact append_eq_ofNat addr (BitVec.ofBool stream)

theorem pageByte_eq_ofNat (row : BitVec 3) : pageByte row = BitVec.ofNat 8 (0xB0 + row.toNat) := append_eq_ofNat ..

theorem colHighByte_eq_ofNat (high : BitVec 4) : colHighByte high = BitVec.ofNat 8 (0x10 + high.toNat) :=
  append_eq_ofNat ..

theorem colLowByte_eq_ofNat (low : BitVec 4) : colLowByte low = BitVec.ofNat 8 low.toNat := by
  rw [← Nat.zero_add low.toNat]
  exact append_eq_ofNat 0b0000#4 low

/-- `TXBYTE` changes the port only (42_display_wire.md R115). -/
theorem onPort_txByte (v : Byte) (s : State) :
    s.onPort (Port.txByte v) =
      { s with port :=
        { scl := false, sda := true, shr := v, bitc := 0, trace := (byteEvents v).reverse ++ s.port.trace } } := by
  rw [State.onPort, Port.txByte_eq]

/-- Settles O18: each row is `TXBYTE` of its byte, which is the number of the table. -/
theorem wireBytesAreSent : Obligations.WireBytesAreSent := by
  intro s addr stream row high low d i v h
  rw [← onPort_txByte v s]
  simp only [← headerByte_eq_ofNat, ← pageByte_eq_ofNat, ← colHighByte_eq_ofNat, ← colLowByte_eq_ofNat,
    List.mem_cons, Prod.mk.injEq, List.not_mem_nil, or_false] at h
  obtain ⟨rfl, rfl⟩ | ⟨rfl, rfl⟩ | ⟨rfl, rfl⟩ | ⟨rfl, rfl⟩ | ⟨rfl, rfl⟩ := h <;> rfl

/-! ### Register indices out of range (R73, R74) -/

theorem setPointIndex_eq_none {ra : BitVec 3} (h : 4 < ra.toNat) : setPointIndex ra = none :=
  dif_neg (by omega)

theorem targetIndex_eq_none {ra : BitVec 3} (h : 2 < ra.toNat) : targetIndex ra = none :=
  dif_neg (by omega)

theorem durationIndex_eq_none {rb : BitVec 3} (h : rb.toNat ≠ 3 ∧ rb.toNat ≠ 4) : durationIndex rb = none :=
  dif_neg (by omega)

/-- `HOLD` has a meaning only where both of its indices do. -/
theorem execHold_refused {ra rb : BitVec 3} (h : targetIndex ra = none ∨ durationIndex rb = none) (s : State) :
    execHold ra rb s = .refused .illegalOp := by
  obtain h | h := h
  · simp [execHold, h]
  · cases ht : targetIndex ra <;> simp [execHold, ht, h]

/-- Settles O39: an index out of range names no register. -/
theorem badRegisterIndexIsRefused : Obligations.BadRegisterIndexIsRefused := by
  intro s ra rb stop
  refine ⟨fun h => ⟨?_, ?_⟩, fun h => ?_, fun h => ?_⟩
  · simp [exec, execEdit, setPointIndex_eq_none h]
  · simp [exec, execLoadsp, setPointIndex_eq_none h]
  · simp [exec, execHeat, targetIndex_eq_none h]
  · exact execHold_refused (h.imp targetIndex_eq_none durationIndex_eq_none) s

end Machine

end Sys2Proof
end

section
/-! The sensor unit and the frame of the control tick's operations (40_sensors.md R91 to R96, 41_actuator.md R100, R104). -/

namespace Sys2Proof

/-! ### Rounding and the exact transfer functions (R91 to R94) -/

/-- `RND` lies between the floor and the ceiling of the exact quotient (00_scope.md R8). -/
theorem Config.rnd_between_floor_ceil (a : ℕ) {b : ℕ} (hb : 0 < b) :
    ⌊(a / b : ℚ)⌋ ≤ (Config.rnd a b : ℤ) ∧ (Config.rnd a b : ℤ) ≤ ⌈(a / b : ℚ)⌉ := by
  constructor
  · rw [Rat.floor_natCast_div_natCast]
    exact_mod_cast floor_le_roundWith _ a b
  · have hceil : a ≤ ⌈(a / b : ℚ)⌉₊ * b := by
      have h := (div_le_iff₀ (by exact_mod_cast hb)).1 (Nat.le_ceil (a / b : ℚ))
      exact_mod_cast h
    rw [← Int.natCast_ceil_eq_ceil (by positivity)]
    exact_mod_cast roundWith_le_ceil _ a b _ hceil

namespace Machine

/-- The Celsius value of a sum of 100 samples as an exact rational, not rounded and not saturated (R91, R92). -/
def exactCelsius (acc : ℕ) : ℚ := ((acc : ℚ) / 100 * (Config.kn / Config.kd) - 2637) / (-13.6)

/-- The millivolts of a sum of 20 samples as an exact rational (R91, R93). -/
def exactMillivolts (acc : ℕ) : ℚ := (acc : ℚ) / 20 * (Config.kn / Config.kd)

theorem kd_cast_pos : (0 : ℚ) < Config.kd := by exact_mod_cast Config.kd_pos

/-- "The same value in integers" (R92). -/
theorem exactCelsius_eq_div (acc : ℕ) :
    exactCelsius acc = ((263700 * Config.kd : ℕ) - (acc * Config.kn : ℕ) : ℚ) / (1360 * Config.kd : ℕ) := by
  have hkd := kd_cast_pos.ne'
  push_cast [exactCelsius]
  field_simp
  ring

/-- The value in integers (R93). -/
theorem exactMillivolts_eq_div (acc : ℕ) :
    exactMillivolts acc = ((acc * Config.kn : ℕ) : ℚ) / (20 * Config.kd : ℕ) := by
  push_cast [exactMillivolts]
  rw [div_mul_div_comm]

theorem exactCelsius_neg_iff (acc : ℕ) : exactCelsius acc < 0 ↔ 263700 * Config.kd < acc * Config.kn := by
  have hden : (0 : ℚ) < (1360 * Config.kd : ℕ) := by exact_mod_cast Nat.mul_pos (by decide) Config.kd_pos
  rw [exactCelsius_eq_div, div_lt_iff₀ hden, zero_mul, sub_neg, Nat.cast_lt]

/-- A negative Celsius value is returned as 0 (R94). -/
theorem celsius_of_neg {acc : ℕ} (h : exactCelsius acc < 0) : celsius Config.rnd Config.kn Config.kd acc = 0 :=
  if_pos ((exactCelsius_neg_iff acc).1 h)

/-- A Celsius value that is not negative is rounded once (R91, R92). -/
theorem celsius_between_floor_ceil {acc : ℕ} (h : 0 ≤ exactCelsius acc) :
    ⌊exactCelsius acc⌋ ≤ (celsius Config.rnd Config.kn Config.kd acc : ℤ) ∧
      (celsius Config.rnd Config.kn Config.kd acc : ℤ) ≤ ⌈exactCelsius acc⌉ := by
  have hle : ¬ 263700 * Config.kd < acc * Config.kn := fun hlt => h.not_gt ((exactCelsius_neg_iff acc).2 hlt)
  rw [celsius, if_neg hle, exactCelsius_eq_div, ← Nat.cast_sub (not_lt.1 hle)]
  exact Config.rnd_between_floor_ceil _ (Nat.mul_pos (by decide) Config.kd_pos)

/-- The millivolts are rounded once (R91, R93). -/
theorem millivolts_between_floor_ceil (acc : ℕ) :
    ⌊exactMillivolts acc⌋ ≤ (millivolts Config.rnd Config.kn Config.kd acc : ℤ) ∧
      (millivolts Config.rnd Config.kn Config.kd acc : ℤ) ≤ ⌈exactMillivolts acc⌉ := by
  rw [exactMillivolts_eq_div]
  exact Config.rnd_between_floor_ceil _ (Nat.mul_pos (by decide) Config.kd_pos)

/-! ### Monotonicity (R96) -/

/-- A larger sum of samples never gives a larger temperature. -/
theorem celsius_antitone : Antitone (celsius Config.rnd Config.kn Config.kd) := by
  intro m n hmn
  have hkn : m * Config.kn ≤ n * Config.kn := Nat.mul_le_mul_right _ hmn
  have hden : 0 < 1360 * Config.kd := Nat.mul_pos (by decide) Config.kd_pos
  unfold celsius
  by_cases hn : 263700 * Config.kd < n * Config.kn
  · rw [if_pos hn]; exact Nat.zero_le _
  · rw [if_neg hn, if_neg (by omega)]
    exact Config.rnd_mono _ _ _ _ hden hden (Nat.mul_le_mul_right _ (by omega))

/-- A larger sum of samples never gives a smaller voltage. -/
theorem millivolts_monotone : Monotone (millivolts Config.rnd Config.kn Config.kd) := by
  intro m n hmn
  have hden : 0 < 20 * Config.kd := Nat.mul_pos (by decide) Config.kd_pos
  exact Config.rnd_mono _ _ _ _ hden hden (Nat.mul_le_mul_right _ (Nat.mul_le_mul_right _ hmn))

/-! ### The readings as numbers: neither wraps in its register (R97) -/

theorem readTemperature_toNat {s t : State} (h : exec .rdtemp s = .next t) :
    t.t.toNat = celsius Config.rnd Config.kn Config.kd (sampleSum (s.env.samples .temp 100).1) := by
  rw [next_inj h, State.readTemperature_eq]
  exact Nat.mod_eq_of_lt ((celsius_le _).trans_lt (by decide))

theorem readVoltage_toNat {s t : State} (h : exec .rdvolt s = .next t) :
    t.v.toNat = millivolts Config.rnd Config.kn Config.kd (sampleSum (s.env.samples .volt 20).1) := by
  rw [next_inj h, State.readVoltage_eq]
  exact Nat.mod_eq_of_lt ((millivolts_le _ (voltSum_lt s.env)).trans_lt Config.volt_fits)

/-! ### The obligations -/

/-- Settles O6: `RDTEMP` in closed form. -/
theorem readTemperatureResult : Obligations.ReadTemperatureResult := fun s =>
  congrArg Host.Outcome.next s.readTemperature_eq

/-- Settles O7: `RDVOLT` in closed form. -/
theorem readVoltageResult : Obligations.ReadVoltageResult := fun s =>
  congrArg Host.Outcome.next s.readVoltage_eq

/-- Settles O8: the exact transfer over the common denominator is the quotient that `RND` rounds. -/
theorem readingsFollowTransfer : Obligations.ReadingsFollowTransfer := by
  refine ⟨fun s t h => ?_, fun s t h => ?_⟩
  · rw [readTemperature_toNat h]
    exact ⟨celsius_of_neg, celsius_between_floor_ceil⟩
  · rw [readVoltage_toNat h]
    exact millivolts_between_floor_ceil _

/-- Settles O10: `ACC` holds the exact sum, and the rounded transfer is monotone in the sum. -/
theorem readingsAreMonotone : Obligations.ReadingsAreMonotone := by
  refine ⟨fun s s' t t' h h' hle => ?_, fun s s' t t' h h' hle => ?_⟩
  · obtain ⟨-, hacc, -⟩ := readingRanges.1 s t h
    obtain ⟨-, hacc', -⟩ := readingRanges.1 s' t' h'
    rw [readTemperature_toNat h, readTemperature_toNat h', ← hacc, ← hacc']
    exact celsius_antitone hle
  · obtain ⟨-, hacc, -⟩ := readingRanges.2 s t h
    obtain ⟨-, hacc', -⟩ := readingRanges.2 s' t' h'
    rw [readVoltage_toNat h, readVoltage_toNat h', ← hacc, ← hacc']
    exact millivolts_monotone hle

/-- Settles O11: in closed form a reading names the samples it takes and no other part of the state. -/
theorem readingsHaveNoFilterState : Obligations.ReadingsHaveNoFilterState := by
  refine fun s s' t t' => ⟨fun hsame h h' => ?_, fun hsame h h' => ?_⟩
  · rw [next_inj h, next_inj h', State.readTemperature_eq, State.readTemperature_eq, hsame]
    exact ⟨rfl, rfl, fun henv => by rw [henv]⟩
  · rw [next_inj h, next_inj h', State.readVoltage_eq, State.readVoltage_eq, hsame]
    exact ⟨rfl, rfl, fun henv => by rw [henv]⟩

/-- `EDIT` is the only operation that stores a persistent byte (44_phases.md R146, 20_memory.md R62). -/
theorem SameStore.of_exec {i : Instr} {s t : State} (h : exec i s = .next t) (hi : ∀ ra, i ≠ .edit ra) :
    SameStore s t := fun j => by
  obtain hcfg | ⟨ra, -, -, hedit, -⟩ := (exec_memoryEffect h).store
  · rw [hcfg]
  · exact absurd hedit (hi ra)

/-- Settles O41: the closed forms of the four operations name what they write, and none of the four is `EDIT`. -/
theorem controlOperationsFrame : Obligations.ControlOperationsFrame := by
  refine fun s t => ⟨fun h => ?_, fun h => ?_, fun h => ?_, fun h => ?_⟩
  · have hstore : SameStore s t := .of_exec h nofun
    rw [next_inj h, State.readTemperature_eq] at hstore ⊢
    exact ⟨by dsimp only, hstore, by dsimp only⟩
  · have hstore : SameStore s t := .of_exec h nofun
    rw [next_inj h, State.readVoltage_eq] at hstore ⊢
    exact ⟨by dsimp only, hstore, by dsimp only⟩
  · obtain rfl := next_inj h
    exact ⟨rfl, .of_exec h nofun⟩
  · obtain rfl := next_inj h
    exact ⟨rfl, .of_exec h nofun, rfl⟩

end Machine

end Sys2Proof
end

section
/-! The actuator unit and its under-voltage interlock (41_actuator.md R100, R101, R104). -/

namespace Sys2Proof.Machine

/-! ### The decision -/

/-- Below the floor the decision does not look at `T` and `TGT` (R101). -/
theorem bangBang_of_low (t tgt : Byte) {v : BitVec 16} (hv : v.toNat < 2000) : bangBang t tgt v = .fault :=
  if_pos hv

/-! ### The interlock in a control tick -/

/-- A tick of `HEAT` or `HOLD` that leaves `V` below the floor was the trap: `V` is the supply it read, and nothing after
the test of the floor writes it (60_exceptions.md R186). -/
theorem exec_tick_low {i : Instr} {s t : State} (hi : (∃ stop ra, i = .heat stop ra) ∨ (∃ ra rb, i = .hold ra rb))
    (he : s.entered = true) (h : exec i s = .next t) (hlow : t.v.toNat < 2000) :
    (tickV s).toNat < 2000 ∧ t = raiseUndervoltage { s.measure with tr := .fault } := by
  obtain ⟨stop, ra, rfl⟩ | ⟨ra, rb, rfl⟩ := hi
  · obtain ⟨-, -, ⟨hne, -⟩ | ⟨-, hv, ht⟩ | ⟨-, hv, -, q, rfl, -⟩⟩ := execHeat_next h
    · simp [he] at hne
    · exact ⟨hv, ht⟩
    · exact absurd hlow hv
  · obtain ⟨-, -, -, -, ⟨hne, -⟩ | ⟨hne, -⟩ | ⟨-, hv, ht⟩ | ⟨-, hv, -, q, rfl, -⟩⟩ := execHold_next h
    · simp [he] at hne
    · simp [he] at hne
    · exact ⟨hv, ht⟩
    · exact absurd hlow hv

/-- The one `HeaterSet` of a drive to level 0 is not a `HeaterSet(1)`. -/
theorem HeaterDriven.never_on {s t : State} (h : HeaterDriven false s t) :
    t.heater = false ∧ ∃ evs, Emitted evs s t ∧ Event.heaterSet true ∉ evs := by
  obtain ⟨as, bs, hem, has, hbs, hh⟩ := h
  exact ⟨hh, _, hem, by simp [has true, hbs true]⟩

/-! ### The obligations -/

/-- Settles O14: a tick that reads such a supply is the trap, whose only `HeaterSet` switches the heater off. -/
theorem interlockDominates : Obligations.InterlockDominates := by
  refine ⟨fun s t h hv => ?_, fun i s t hi he h hlow => ?_⟩
  · obtain rfl := next_inj h
    exact bangBang_of_low s.t s.tgt hv
  · obtain ⟨hv, rfl⟩ := exec_tick_low hi he h hlow
    exact ⟨by rw [trap_eq s hv], (heaterDriven_trap hv).never_on⟩

/-- Settles O12: the op word and the codes are fixed values, and `bangBang` is the rule's cascade. -/
theorem decideResult : Obligations.DecideResult :=
  ⟨by decide, rfl, rfl, rfl, fun _ => rfl⟩

/-- Settles O13: `DRIVE` is `setHeater` with the level that the comparison of `DEC` gives. -/
theorem driveResult : Obligations.DriveResult := fun s => by
  have hlevel : (s.dec == .energize) = decide (s.dec = .energize) := beq_eq_decide s.dec .energize
  rw [← hlevel]
  rfl

end Sys2Proof.Machine
end

section
/-! The display link at wire level (42_display_wire.md R112 to R121): what its writes keep on the lines, and how many each
element and each display operation adds. -/

namespace Sys2Proof.Machine

/-! ### The data line while the clock is high (R114, R121) -/

theorem isWire_iff {e : Event} : isWire e = true ↔ ∃ line level, e = .wire line level := by
  cases e <;> simp [isWire]

/-- One write, on the line levels: a write of the data line finds the clock low, and the writes after it start at the levels
it leaves. -/
theorem dataOnlyWhileLow_wire_cons (l : Levels) (line : Line) (level : Bool) (evs : List Event) :
    dataOnlyWhileLow l.scl (.wire line level :: evs) ↔
      (line = .sda → l.scl = false) ∧ dataOnlyWhileLow (l.after (.wire line level)).scl evs := by
  cases line <;> simp [dataOnlyWhileLow, Levels.after]

/-- A pulse writes the data first, and the clock is low again after it (R114). -/
@[simp] theorem dataOnlyWhileLow_bitEvents_append (b : Bool) (evs : List Event) :
    dataOnlyWhileLow false (bitEvents b ++ evs) ↔ dataOnlyWhileLow false evs :=
  and_iff_right rfl

/-- A byte is nine pulses (R115). -/
@[simp] theorem dataOnlyWhileLow_byteEvents_append (v : Byte) (evs : List Event) :
    dataOnlyWhileLow false (byteEvents v ++ evs) ↔ dataOnlyWhileLow false evs := by
  simp [byteEvents]

theorem dataOnlyWhileLow_bytes (bytes : List Byte) : dataOnlyWhileLow false (bytes.flatMap byteEvents) := by
  induction bytes with
  | nil => trivial
  | cons v bytes ih => exact (dataOnlyWhileLow_byteEvents_append v _).2 ih

/-- A write that repeats a level changes neither line, so leaving it out keeps the discipline of the data line: the waveform
on the pins has it where the trace has it (R121). -/
theorem dataOnlyWhileLow_waveform {l : Levels} {evs : List Event} (hw : ∀ e ∈ evs, isWire e = true)
    (h : dataOnlyWhileLow l.scl evs) : dataOnlyWhileLow l.scl (waveform l evs) := by
  induction evs generalizing l with
  | nil => trivial
  | cons e evs ih =>
    obtain ⟨he, hevs⟩ := List.forall_mem_cons.1 hw
    obtain ⟨line, level, rfl⟩ := isWire_iff.1 he
    obtain ⟨hsda, htail⟩ := (dataOnlyWhileLow_wire_cons l line level evs).1 h
    by_cases hl : l.after (.wire line level) = l
    · rw [hl] at htail
      rw [waveform, if_pos hl]
      exact ih hevs htail
    · rw [waveform, if_neg hl]
      exact (dataOnlyWhileLow_wire_cons l line level _).2 ⟨hsda, ih hevs htail⟩

/-- Where the data line is written only while the clock is low, it keeps its level while the clock is high: a write of the
clock leaves the data line alone, and a write of the data line finds the clock low (R121). -/
theorem dataStable_levelsAlong {l : Levels} {evs : List Event} (hw : ∀ e ∈ evs, isWire e = true)
    (h : dataOnlyWhileLow l.scl evs) : dataStable l (levelsAlong l evs) := by
  induction evs generalizing l with
  | nil => trivial
  | cons e evs ih =>
    obtain ⟨he, hevs⟩ := List.forall_mem_cons.1 hw
    obtain ⟨line, level, rfl⟩ := isWire_iff.1 he
    obtain ⟨hsda, htail⟩ := (dataOnlyWhileLow_wire_cons l line level evs).1 h
    refine ⟨fun hhigh _ => ?_, ih hevs htail⟩
    cases line with
    | scl => rfl
    | sda => simp [hsda rfl] at hhigh

/-! ### The writes of a transaction (R117) -/

/-- The header is one more byte before the payload. -/
theorem txEvents_eq (stream : Bool) (bytes : List Byte) :
    txEvents stream bytes =
      startEvents ++ (headerByte Config.dispAddr stream :: bytes).flatMap byteEvents ++ stopEvents := by
  simp [txEvents]

theorem byteEvents_isWire (v : Byte) : ∀ e ∈ byteEvents v, isWire e = true :=
  List.all_eq_true.1 rfl

theorem bytes_isWire (bytes : List Byte) : ∀ e ∈ bytes.flatMap byteEvents, isWire e = true := fun e he => by
  obtain ⟨v, -, hv⟩ := List.mem_flatMap.1 he
  exact byteEvents_isWire v e hv

@[simp] theorem length_byteEvents (v : Byte) : (byteEvents v).length = 27 := rfl

@[simp] theorem length_txEvents (stream : Bool) (bytes : List Byte) :
    (txEvents stream bytes).length = 27 * bytes.length + 32 := by
  simp [txEvents_eq, List.length_flatMap, startEvents, stopEvents]
  omega

/-- Nine rises for each byte, the header among them, and the rise in the stop condition (R119). -/
theorem countP_isClockRise_txEvents (stream : Bool) (bytes : List Byte) :
    (txEvents stream bytes).countP isClockRise = 9 * (bytes.length + 1) + 1 := by
  have hbyte : ∀ v, (byteEvents v).countP isClockRise = 9 := fun v => rfl
  have hstart : startEvents.countP isClockRise = 0 := rfl
  have hstop : stopEvents.countP isClockRise = 1 := rfl
  simp [txEvents_eq, List.countP_flatMap, Function.comp_def, hbyte, hstart, hstop]
  omega

/-! ### The display operations with a legal operand (43_display_dispatch.md R126, R127) -/

theorem exec_setcur_legal {col : Byte} (h : col.toNat ≤ 127) (row : BitVec 3) (s : State) :
    exec (.setcur row col) s = .next (s.onPort (Port.setCursor row col)) :=
  if_pos (decide_eq_true h)

theorem exec_putch_legal {c : Byte} (h : 32 ≤ c.toNat ∧ c.toNat ≤ 126) (s : State) :
    exec (.putch c) s = .next (s.onPort (Port.putChar c)) :=
  if_pos (decide_eq_true h)

/-! ### Numbers of writes (R119) -/

theorem Sent.addsWires {evs : List Event} {p q : Port} (h : Sent evs p q) (hw : ∀ e ∈ evs, isWire e = true) :
    AddsWires evs.length p q :=
  ⟨evs, h.trace, rfl, hw⟩

theorem Port.tx_addsWires (stream : Bool) (bytes : List Byte) (p : Port) :
    AddsWires (27 * bytes.length + 32) p (p.tx stream bytes) :=
  length_txEvents stream bytes ▸ (Port.tx_sent stream bytes p).addsWires (txEvents_isWire stream bytes)

theorem Port.txByte_addsWires (v : Byte) (p : Port) : AddsWires 27 p (p.txByte v) :=
  ⟨byteEvents v, by rw [Port.txByte_eq], rfl, byteEvents_isWire v⟩

theorem length_pageEvents (page : BitVec 3) : (pageEvents page).length = 113 + 3488 := by
  simp [pageEvents, cursorEvents]

theorem length_clearEvents : clearEvents.length = 28808 := by
  simp [clearEvents, length_pageEvents]

/-- `CLEAR` sends the writes of its op word. -/
theorem Port.clear_addsWires (p : Port) : AddsWires 28808 p p.clear :=
  length_clearEvents ▸ (Port.clear_sent p).addsWires (wordEvents_isWire 0x3000)

theorem Port.tx_clockRises (stream : Bool) (bytes : List Byte) (p : Port) :
    (p.tx stream bytes).trace.countP isClockRise = p.trace.countP isClockRise + (9 * (bytes.length + 1) + 1) := by
  rw [(Port.tx_sent stream bytes p).trace, List.countP_append, List.countP_reverse, countP_isClockRise_txEvents,
    Nat.add_comm]

/-! ### The obligations -/

/-- Settles O19: the closed form of a transaction. -/
theorem transactionShape : Obligations.TransactionShape := fun stream bytes p =>
  have hsent := Port.tx_sent stream bytes p
  ⟨hsent.trace, hsent.idle, rfl, rfl⟩

/-- Settles O20: each pulse writes the data while the clock is low; the waveform and the register values follow from that. -/
theorem dataStableWhileClockHigh : Obligations.DataStableWhileClockHigh := by
  intro stream bytes p
  have hwire := bytes_isWire (headerByte Config.dispAddr stream :: bytes)
  have hlow : dataOnlyWhileLow p.start.levels.scl _ :=
    dataOnlyWhileLow_bytes (headerByte Config.dispAddr stream :: bytes)
  refine ⟨?_, hlow, dataOnlyWhileLow_waveform hwire hlow, dataStable_levelsAlong hwire hlow, ?_⟩
  · rw [(Port.tx_sent stream bytes p).trace, txEvents_eq, List.flatMap_cons]
  · rw [Port.tx_eq, levelsAfter_append]
    rfl

/-- Settles O25: the length of the writes that each operation sends, by the closed forms of the link. -/
theorem linkEventCounts : Obligations.LinkEventCounts := by
  refine ⟨fun p => ⟨?start, ?stop⟩, fun stream bytes p => ⟨p.tx_addsWires stream bytes, p.tx_clockRises stream bytes⟩,
    fun p => ?page, fun b s => ⟨_, rfl, ?bit⟩, fun v s => ⟨_, rfl, s.port.txByte_addsWires v⟩,
    fun row col s hcol => ⟨_, exec_setcur_legal hcol row s, ?setcur⟩,
    fun c s hc => ⟨_, exec_putch_legal hc s, ?putch⟩, fun s => ⟨_, rfl, s.port.clear_addsWires⟩⟩
  case start => exact ⟨startEvents, rfl, rfl, List.all_eq_true.1 rfl⟩
  case stop => exact ⟨stopEvents, rfl, rfl, List.all_eq_true.1 rfl⟩
  case bit => exact ⟨bitEvents b, rfl, rfl, List.all_eq_true.1 rfl⟩
  case page =>
    have h := p.tx_addsWires true (List.replicate 128 0)
    rw [List.length_replicate] at h
    exact h
  case setcur => exact s.port.tx_addsWires false (cursorBytes row col)
  case putch => exact s.port.tx_addsWires true (glyphBytes c)

/-- Settles O15: the writes of each element, one by one. -/
theorem startAndStopFraming : Obligations.StartAndStopFraming := fun p =>
  ⟨fun _ _ => p.start_eq, fun _ => p.stop_eq⟩

/-- Settles O16: the three writes of a pulse, evaluated, are those of `Port.txBit_eq`. -/
theorem txbitResult : Obligations.TxbitResult := fun _ _ => rfl

/-- Settles O17: a byte in closed form. -/
theorem txbyteResult : Obligations.TxbyteResult := fun v s =>
  ⟨congrArg Host.Outcome.next (onPort_txByte v s), length_byteEvents v⟩

end Sys2Proof.Machine
end

section
/-! The display dispatch (43_display_dispatch.md R125 to R132): what each display operation leaves in the port, which
operations only send on the link, and the render list. -/

namespace Sys2Proof.Machine

/-! ### The port after a display operation (R126 to R128) -/

/-- After whole transactions only the framer's registers are left to say: the lines are idle, and the trace has grown. -/
theorem Sent.port_eq {evs : List Event} {p q : Port} (h : Sent evs p q) :
    q = { scl := true, sda := true, shr := q.shr, bitc := q.bitc, trace := evs.reverse ++ p.trace } := by
  obtain ⟨scl, sda, shr, bitc, trace⟩ := q
  obtain ⟨rfl, rfl⟩ : scl = true ∧ sda = true := Bool.and_eq_true_iff.1 h.idle
  obtain rfl : trace = evs.reverse ++ p.trace := h.trace
  rfl

theorem Port.setCursor_eq (row : BitVec 3) (col : Byte) (p : Port) :
    p.setCursor row col =
      { scl := true, sda := true, shr := col &&& 0x0F, bitc := 0
        trace := (cursorEvents row col).reverse ++ p.trace } := by
  rw [Port.setCursor, Port.cmdTx, cursorBytes_eq, Port.tx_eq]
  rfl

theorem Port.putChar_eq (c : Byte) (p : Port) :
    p.putChar c =
      { scl := true, sda := true, shr := Config.font (c.toNat - 32) 5, bitc := 0
        trace := (charEvents c).reverse ++ p.trace } := by
  rw [Port.putChar, Port.dataTx, glyphBytes_eq, Port.tx_eq]
  rfl

/-- A page of `CLEAR` ends with a zero byte, so it leaves the framer's registers 0. -/
theorem Port.clearPage_framer (n : Nat) (p : Port) : (p.clearPage n).shr = 0 ∧ (p.clearPage n).bitc = 0 := by
  rw [Port.clearPage, Port.dataTx, Port.tx_eq]
  exact ⟨rfl, rfl⟩

/-- The trace and the lines are those of the eight pages; the framer's registers are those that the last page leaves. -/
theorem Port.clear_eq (p : Port) :
    p.clear = { scl := true, sda := true, shr := 0, bitc := 0, trace := clearEvents.reverse ++ p.trace } := by
  obtain ⟨q, hlast⟩ : ∃ q : Port, p.clear = q.clearPage 7 := ⟨_, rfl⟩
  obtain ⟨hshr, hbitc⟩ := q.clearPage_framer 7
  rw [← hlast] at hshr hbitc
  rw [(Port.clear_sent p).port_eq, hshr, hbitc]

/-! ### Illegal operands (R126, R127) -/

theorem exec_setcur_illegal {col : Byte} (h : 127 < col.toNat) (row : BitVec 3) (s : State) :
    exec (.setcur row col) s = .refused .badColumn :=
  if_neg (by simpa [columnLegal] using h)

theorem exec_putch_illegal {c : Byte} (h : c.toNat < 32 ∨ 126 < c.toNat) (s : State) :
    exec (.putch c) s = .refused .badChar :=
  if_neg (by rw [charLegal, decide_eq_true_iff]; omega)

/-! ### The operations that only send on the link (R75 to R77, R114, R115, R126 to R128) -/

theorem exec_setcur_next {row : BitVec 3} {col : Byte} {s t : State} (h : exec (.setcur row col) s = .next t) :
    t = s.onPort (Port.setCursor row col) := by
  rcases le_or_gt col.toNat 127 with hcol | hcol
  · exact next_inj ((exec_setcur_legal hcol row s).symm.trans h)
  · cases (exec_setcur_illegal hcol row s).symm.trans h

theorem exec_putch_next {c : Byte} {s t : State} (h : exec (.putch c) s = .next t) :
    t = s.onPort (Port.putChar c) := by
  by_cases hc : 32 ≤ c.toNat ∧ c.toNat ≤ 126
  · exact next_inj ((exec_putch_legal hc s).symm.trans h)
  · cases (exec_putch_illegal (by omega) s).symm.trans h

/-- The display operations without `DINIT`, which completes, and the elements of the link. -/
def sendsOnLink : Instr → Bool
  | .setcur _ _ | .putch _ | .clear => true
  | .hdr _ _ | .cmdPage _ | .cmdColh _ | .cmdColl _ | .data _ | .txbit _ | .txbyte _ => true
  | _ => false

/-- Such an operation changes the port only, and by writes of the lines. -/
theorem exec_sendsOnLink {i : Instr} {s t : State} (hi : sendsOnLink i = true) (h : exec i s = .next t) :
    ∃ n f, t = s.onPort f ∧ AddsWires n s.port (f s.port) := by
  cases i with
  | setcur row col => exact ⟨_, _, exec_setcur_next h, s.port.tx_addsWires false (cursorBytes row col)⟩
  | putch c => exact ⟨_, _, exec_putch_next h, s.port.tx_addsWires true (glyphBytes c)⟩
  | clear => exact ⟨_, _, next_inj h, s.port.clear_addsWires⟩
  | txbit b => exact ⟨_, _, next_inj h, bitEvents b, rfl, rfl, List.all_eq_true.1 rfl⟩
  | hdr _ _ | cmdPage _ | cmdColh _ | cmdColl _ | data _ | txbyte _ =>
    exact ⟨_, _, next_inj h, s.port.txByte_addsWires _⟩
  | _ => cases hi

/-! ### The render list (R132) -/

theorem runRenderList_legal {ws : List OpWord} (h : ∀ w ∈ ws, renderWordLegal w = true) (s : State)
    (k : State → Result) : runRenderList ws s k = k (s.onPort (drawWords ws)) := by
  simp [runRenderList, renderRefusal_legal ws h]

/-- A list is refused for its first word that has no meaning there, which stands no later than a given illegal word. -/
theorem renderRefusal_illegal {ws : List OpWord} (h : ∃ w ∈ ws, renderWordLegal w = false) :
    ∃ r, renderRefusal ws = some r := by
  induction ws with
  | nil => simp at h
  | cons w ws ih =>
    rw [renderRefusal]
    cases hw : renderWordRefusal w with
    | some r => exact ⟨r, rfl⟩
    | none =>
      obtain ⟨x, hx, hillegal⟩ := h
      obtain ⟨r, hr⟩ := renderWordRefusal_illegal x hillegal
      have hne : x ≠ w := by
        rintro rfl
        simp [hr] at hw
      exact ih ⟨x, List.mem_of_ne_of_mem hne hx, hillegal⟩

theorem runRenderList_illegal {ws : List OpWord} (h : ∃ w ∈ ws, renderWordLegal w = false) (s : State)
    (k : State → Result) : ∃ r, runRenderList ws s k = .refused r := by
  obtain ⟨r, hr⟩ := renderRefusal_illegal h
  exact ⟨r, by rw [runRenderList, hr]⟩

/-! ### The obligations -/

/-- Settles O23: the closed form of `CLEAR`. -/
theorem clearResult : Obligations.ClearResult := fun s => by
  rw [← Port.clear_eq]
  rfl

/-- Settles O26: a legal list draws its words one after the other, and an illegal word is met by the test before that. -/
theorem renderListRuns : Obligations.RenderListRuns := fun ws s k =>
  ⟨fun hlegal hidle =>
    have hsent := drawWords_sent ws hlegal s.port hidle
    ⟨drawWords ws s.port, runRenderList_legal hlegal s k, hsent.idle, hsent.trace⟩,
  fun hillegal => runRenderList_illegal hillegal s k⟩

/-- Settles O40: each of the ten operations only sends on the link. -/
theorem linkOperationsFrame : Obligations.LinkOperationsFrame := by
  intro i s t row col c d v addr high low b hi h
  have hsends : sendsOnLink i = true := by
    simp only [List.mem_cons, List.not_mem_nil, or_false] at hi
    obtain rfl | rfl | rfl | rfl | rfl | rfl | rfl | rfl | rfl | rfl := hi <;> rfl
  obtain ⟨n, f, rfl, evs, htrace, -, hwire⟩ := exec_sendsOnLink hsends h
  exact ⟨rfl, fun _ => rfl, evs, htrace, hwire⟩

/-- Settles O21: the closed form of the cursor's transaction, and the refusal of an illegal column. -/
theorem setcurResult : Obligations.SetcurResult := fun row col s => by
  refine ⟨fun hcol => ?_, fun hcol => exec_setcur_illegal hcol row s⟩
  rw [exec_setcur_legal hcol, State.onPort, Port.setCursor_eq]

/-- Settles O22: the closed form of the glyph's transaction, and the refusal of an unprintable character. -/
theorem putchResult : Obligations.PutchResult := fun c s => by
  refine ⟨fun hc => ?_, fun hc => exec_putch_illegal hc s⟩
  rw [exec_putch_legal hc, State.onPort, Port.putChar_eq]

/-- Settles O24: an operation below address 31 that changes the port and completes. -/
theorem dinitResult : Obligations.DinitResult := fun s hpc =>
  completeOp_of_lt (s.onPort Port.bringUp) hpc

end Sys2Proof.Machine
end

section
/-! The entries and the ticks of the sequencer's operations (44_phases.md R140 to R152): each entered operation answers below
address 31, and what its tick leaves; how a step is made of an operation and the entries after it (45_modes.md R168). -/

namespace Sys2Proof.Machine

/-! ### Entry or tick, where the register indices are legal (R140) -/

theorem exec_edit_eq {ra : BitVec 3} {i : Fin 5} (hra : ra.toNat = i.val) (s : State) :
    exec (.edit ra) s = if s.entered then editTick i s else .next (markEntered s) := by
  simp only [exec, execEdit, setPointIndex_of hra]

theorem exec_heat_eq {ra : BitVec 3} {i : Fin 5} (hra : ra.toNat = i.val) (hi : i.val ≤ 2) (stop : Bool) (s : State) :
    exec (.heat stop ra) s = if s.entered then heatTick stop s else .next (heatEntry i s) := by
  simp only [exec, execHeat, targetIndex_of hra hi]

theorem exec_hold_eq {ra rb : BitVec 3} {i j : Fin 5} (hra : ra.toNat = i.val) (hi : i.val ≤ 2) (hrb : rb.toNat = j.val)
    (hj : 3 ≤ j.val) (s : State) :
    exec (.hold ra rb) s =
      if s.entered then holdTick s
      else if s.sp[j] = 0 then completeOp (holdEntry i j s) else .next (holdEntry i j s) := by
  simp only [exec, execHold, targetIndex_of hra hi, durationIndex_of hrb hj]

theorem exec_cool_eq (s : State) : exec .cool s = if s.entered then coolTick s else .next (coolEntry s) := rfl

theorem exec_faultw_eq (s : State) : exec .faultw s = if s.entered then faultTick s else .next (markEntered s) := rfl

/-! ### A tick answers a next state below address 31 (R140, R141) -/

@[simp] theorem polled_entered (op : PhaseOp) (ra : Option (Fin 5)) (s : State) :
    (polled op ra s).entered = s.entered := rfl
@[simp] theorem polled_pc (op : PhaseOp) (ra : Option (Fin 5)) (s : State) : (polled op ra s).pc = s.pc := rfl

@[simp] theorem readTemperature_entered (s : State) : s.readTemperature.entered = s.entered := by
  rw [State.readTemperature_eq]
@[simp] theorem readTemperature_pc (s : State) : s.readTemperature.pc = s.pc := by rw [State.readTemperature_eq]

@[simp] theorem measure_entered (s : State) : s.measure.entered = s.entered := by rw [State.measure_eq]
@[simp] theorem measure_pc (s : State) : s.measure.pc = s.pc := by rw [State.measure_eq]

/-- The wait of a `HOLD` tick goes on or completes (R143). -/
theorem holdWait_answers {s : State} (hpc : s.pc ≠ 31#5) : ∃ t, holdWait s = .next t := by
  unfold holdWait
  split
  · exact ⟨_, phaseCompletes_of _ hpc⟩
  · exact ⟨_, rfl⟩

/-- A tick that renders and polls answers where its end does. -/
theorem renderAndPoll_answers {op : PhaseOp} {ra : Option (Fin 5)} {s : State} {k : Buttons → State → Result}
    (hk : ∀ b m, m.entered = s.entered → m.pc = s.pc → ∃ t, k b m = .next t) :
    ∃ t, renderAndPoll op ra s k = .next t := by
  rw [renderAndPoll_eq]
  exact hk _ _ rfl rfl

/-- A control tick takes the trap, or answers where its end does (R141). -/
theorem controlTick_answers {op : PhaseOp} {s : State} {k : Buttons → State → Result}
    (hk : ∀ b m, m.entered = s.entered → m.pc = s.pc → ∃ t, k b m = .next t) : ∃ t, controlTick op s k = .next t := by
  rw [controlTick_eq]
  split
  · exact ⟨_, rfl⟩
  · exact hk _ _ (by simp) (by simp)

section Answers

variable {s : State} (he : s.entered = true) (hpc : s.pc ≠ 31#5)
include he hpc

/-- The end of a tick answers, whatever a tick has done before it. -/
theorem endTick_answers (done : Bool) {m : State} (hm : m.entered = s.entered) (hmpc : m.pc = s.pc) :
    ∃ t, endTick done m = .next t :=
  ⟨_, endTick_of done m (hm.trans he) (hmpc ▸ hpc)⟩

theorem exec_heat_answers {ra : BitVec 3} (hra : ra.toNat ≤ 2) (stop : Bool) :
    ∃ t, exec (.heat stop ra) s = .next t := by
  obtain ⟨t, ht⟩ : ∃ t, heatTick stop s = .next t := controlTick_answers fun _ _ => endTick_answers he hpc _
  exact ⟨t, (execHeat_entered hra he).trans ht⟩

theorem exec_hold_answers {ra rb : BitVec 3} (hra : ra.toNat ≤ 2) (hrb : rb.toNat = 3 ∨ rb.toNat = 4) :
    ∃ t, exec (.hold ra rb) s = .next t := by
  obtain ⟨t, ht⟩ : ∃ t, holdTick s = .next t := controlTick_answers fun b m _ hmpc => by
    split
    · exact ⟨_, phaseCompletes_of m (hmpc ▸ hpc)⟩
    · exact holdWait_answers (hmpc ▸ hpc)
  exact ⟨t, (execHold_entered hra hrb he).trans ht⟩

theorem exec_cool_answers : ∃ t, exec .cool s = .next t := by
  obtain ⟨t, ht⟩ : ∃ t, coolTick s = .next t := renderAndPoll_answers fun b _ hm hmpc =>
    endTick_answers he hpc b.sel (by simpa using hm) (by simpa using hmpc)
  exact ⟨t, (execCool_entered he).trans ht⟩

theorem exec_faultw_answers : ∃ t, exec .faultw s = .next t := by
  obtain ⟨t, ht⟩ : ∃ t, faultTick s = .next t := renderAndPoll_answers fun b _ => endTick_answers he hpc b.sel
  exact ⟨t, (exec_faultw_eq s).trans ((if_pos he).trans ht)⟩

theorem exec_edit_answers {ra : BitVec 3} {i : Fin 5} (hra : ra.toNat = i.val) : ∃ t, exec (.edit ra) s = .next t := by
  obtain ⟨t, ht⟩ : ∃ t, editTick i s = .next t := renderAndPoll_answers fun b m _ hmpc => by
    unfold editPoll
    split
    · exact ⟨_, phaseCompletes_of _ (hmpc ▸ hpc : m.pc ≠ 31#5)⟩
    · exact ⟨_, rfl⟩
  exact ⟨t, (exec_edit_eq hra s).trans ((if_pos he).trans ht)⟩

end Answers

/-! ### What a tick leaves (R142 to R146) -/

/-- What a tick has emitted, with a test that says what it ends with: at most one event, which a reversal leaves alone. -/
theorem Emitted.of_tick_trace {c : Prop} [Decidable c] {as bs evs : List Event} {s t : State} (has : as.reverse = as)
    (hbs : bs.reverse = bs) (h : t.port.trace = (if c then as else bs) ++ evs.reverse ++ s.port.trace) :
    Emitted (evs ++ if c then as else bs) s t := by
  have hem := Emitted.of_trace h
  rwa [apply_ite List.reverse, has, hbs] at hem

/-- A tick of `HEAT` on a good supply (R142). -/
theorem exec_heat_tick {stop : Bool} {ra : BitVec 3} {s t : State} (he : s.entered = true) (hv : 2000 ≤ (tickV s).toNat)
    (h : exec (.heat stop ra) s = .next t) :
    ∃ q : Port, t = tickEnd (heatDone stop s) (tickBody s q) q ∧ (s.port.idle = true → q.idle = true) ∧
      Emitted (tickEvents .heat s ++ if heatDone stop s then [] else [.delayTick]) s t := by
  obtain ⟨-, -, ⟨hne, -⟩ | ⟨-, hlow, -⟩ | ⟨-, -, -, q, rfl, hidle, htrace⟩⟩ := execHeat_next h
  · simp [he] at hne
  · omega
  · exact ⟨q, rfl, hidle, .of_tick_trace rfl rfl htrace⟩

/-- A tick of `HOLD` on a good supply (R143). -/
theorem exec_hold_tick {ra rb : BitVec 3} {s t : State} (he : s.entered = true) (hv : 2000 ≤ (tickV s).toNat)
    (h : exec (.hold ra rb) s = .next t) :
    ∃ q : Port, t = { tickEnd (holdDone s) (tickBody s q) q with cnt := holdLeft s } ∧
      (s.port.idle = true → q.idle = true) ∧
      Emitted (tickEvents .hold s ++ if (tickEnv s).buttons.1.sel then [] else [.delayHold]) s t := by
  obtain ⟨-, -, -, -, ⟨hne, -⟩ | ⟨hne, -⟩ | ⟨-, hlow, -⟩ | ⟨-, -, -, q, rfl, hidle, htrace⟩⟩ := execHold_next h
  · simp [he] at hne
  · simp [he] at hne
  · omega
  · exact ⟨q, rfl, hidle, .of_tick_trace rfl rfl htrace⟩

/-- A tick of `COOL` (R144). -/
theorem exec_cool_tick {s t : State} (he : s.entered = true) (h : exec .cool s = .next t) :
    ∃ q : Port, t = tickEnd (s.env.samples .temp 100).2.buttons.1.sel (coolBody s) q ∧
      (s.port.idle = true → q.idle = true) ∧
      Emitted
        (tempEvents s ++
          renderEvents ⟨.cool, s.first, some (tickT s), asItStands s.written.v s.v, asItStands s.written.tgt s.tgt,
            asItStands s.written.cnt s.cnt, none, s.sp⟩ ++
          [.pollInputs (s.env.samples .temp 100).2.buttons.1] ++
          if (s.env.samples .temp 100).2.buttons.1.sel then [] else [.delayTick]) s t := by
  obtain ⟨hne, -⟩ | ⟨-, done, hdone, -, q, rfl, hidle, htrace⟩ := execCool_next h
  · simp [he] at hne
  · rw [← hdone]
    exact ⟨q, rfl, hidle, .of_tick_trace rfl rfl htrace⟩

/-- A tick that has some of the duration left counts one second off it (10_state.md R26). -/
theorem holdLeft_of_ne_zero {s : State} (h : s.cnt ≠ 0) :
    holdLeft s = if (tickEnv s).buttons.1.sel then s.cnt else s.cnt - 1 := by
  rw [holdLeft, countDown, if_neg h]

/-- The decision of a tick on a good supply, by the level it drives (41_actuator.md R100, R104). -/
theorem tickBody_dec (s : State) (q : Port) :
    (tickBody s q).dec = if decide ((tickT s).toNat < s.tgt.toNat) = true then .energize else .deEnergize := by
  rw [if_congr decide_eq_true_iff rfl rfl]
  rfl

theorem Memory.read_write_eq_ite (m : Memory) (i j : Fin 5) (b : Byte) :
    (m.write i b).read j = if j = i then b else m.read j := by
  split
  · subst j; exact m.read_write_same i b
  · exact m.read_write_other i j b (Ne.symm ‹_›)

/-! ### The obligations: ticks -/

/-- Settles O28: the tick answers by its end, and on a good supply it is not the trap. -/
theorem heatTickResult : Obligations.HeatTickResult := by
  intro stop ra s hra he hpc
  obtain ⟨t, ht⟩ := exec_heat_answers he hpc hra stop
  refine ⟨t, ht, fun hv => ?_⟩
  obtain ⟨q, rfl, hidle, hem⟩ := exec_heat_tick he hv ht
  exact ⟨by rw [← tickBody_dec s q]; dsimp only [tickEnd, tickBody, heatDone], hidle, hem⟩

/-- Settles O31: the tick answers by its end, and on a good supply, with `CNT` above zero, the countdown is a decrement. -/
theorem holdTickResult : Obligations.HoldTickResult := by
  intro ra rb s hra hrb he hcnt hpc
  obtain ⟨t, ht⟩ := exec_hold_answers he hpc hra hrb
  dsimp only
  rw [← holdLeft_of_ne_zero hcnt]
  refine ⟨t, ht, fun hv => ?_⟩
  obtain ⟨q, rfl, hidle, hem⟩ := exec_hold_tick he hv ht
  exact ⟨by rw [← tickBody_dec s q]; dsimp only [tickEnd, tickBody, holdDone], hidle, hem⟩

/-- Settles O33: the entry is a write of the heater output; the tick answers by its end, and its test is Select alone. -/
theorem coolResult : Obligations.CoolResult := by
  refine fun s => ⟨fun he => (exec_cool_eq s).trans (if_neg (by simp [he])), fun he hpc => ?_⟩
  obtain ⟨t, ht⟩ := exec_cool_answers he hpc
  obtain ⟨q, rfl, hidle, hem⟩ := exec_cool_tick he ht
  exact ⟨_, ht, by dsimp only [tickEnd, coolBody], hidle, hem⟩

/-- Settles O34: the entry sets `FIRST`; the tick answers by its end, and its test is Select alone. -/
theorem faultwResult : Obligations.FaultwResult := by
  refine fun s => ⟨fun he => (exec_faultw_eq s).trans (if_neg (by simp [he])), fun he hpc => ?_⟩
  obtain ⟨t, ht⟩ := exec_faultw_answers he hpc
  obtain ⟨hne, -⟩ | ⟨-, -, rfl, -, q, rfl, hidle, htrace⟩ := execFaultw_next ht
  · simp [he] at hne
  · exact ⟨_, ht, rfl, hidle, .of_tick_trace rfl rfl htrace⟩

/-- Settles O35: the entry sets `FIRST`; a tick stores the edited value in its slot exactly where Select ends it. -/
theorem editResult : Obligations.EditResult := by
  refine fun ra i s hra => ⟨fun he => (exec_edit_eq hra s).trans (if_neg (by simp [he])), fun he hpc => ?_⟩
  obtain ⟨t, ht⟩ := exec_edit_answers he hpc hra
  obtain ⟨k, hk, ⟨hne, -⟩ | ⟨-, x, hx, -, rfl, -, q, m, rfl, hm, hidle, htrace⟩⟩ := execEdit_next ht
  · simp [he] at hne
  · obtain rfl : i = k := Option.some.inj ((setPointIndex_of hra).symm.trans hk)
    obtain rfl := hx
    refine ⟨_, ht, rfl, rfl, hidle, fun j => ?_, .of_tick_trace rfl rfl htrace⟩
    have hread : m.read j =
        if s.env.buttons.1.sel = true ∧ j = i then editValue i s.env.buttons.1 s.sp[i] else s.env.cfg.read j := by
      cases hsel : s.env.buttons.1.sel with
      | false => simp [hm, hsel]
      | true => simp [hm, hsel, Memory.read_write_eq_ite]
    exact hread

/-- Settles O59: Select at the poll is one of the ends of each of the three ticks. -/
theorem selectEndsPhase : Obligations.SelectEndsPhase := by
  refine fun i s t he h => ⟨fun hi hv hsel => ?_, fun hi hsel => ?_⟩
  · obtain ⟨stop, ra, rfl⟩ | ⟨ra, rb, rfl⟩ := hi
    · have hdone : heatDone stop s = true := by simp [heatDone, hsel]
      obtain ⟨q, rfl, -⟩ := exec_heat_tick he hv h
      rw [hdone]
      exact ⟨rfl, rfl, rfl⟩
    · have hdone : holdDone s = true := by simp [holdDone, hsel]
      obtain ⟨q, rfl, -⟩ := exec_hold_tick he hv h
      rw [hdone]
      exact ⟨rfl, rfl, rfl⟩
  · subst i
    obtain ⟨q, rfl, -⟩ := exec_cool_tick he h
    rw [hsel]
    exact ⟨rfl, rfl, rfl⟩

/-! ### The obligations: entries, and the operations without ticks -/

/-- Settles O27: the entry of an operation with a legal target. -/
theorem heatEntryResult : Obligations.HeatEntryResult := fun stop ra i s hra hi he =>
  (exec_heat_eq hra hi stop s).trans (if_neg (by simp [he]))

/-- Settles O29: the entry of an operation with a legal target and duration register, whose duration is not zero. -/
theorem holdEntryResult : Obligations.HoldEntryResult := by
  intro ra rb i j s hra hi hrb hj he hsp
  rw [exec_hold_eq hra hi hrb hj, if_neg (by simp [he]), if_neg hsp]
  rfl

/-- Settles O30: with duration zero the entry completes, and completion moves `PC` on and nothing else. -/
theorem zeroHoldIsNoOp : Obligations.ZeroHoldIsNoOp := by
  intro ra rb i j s hra hi hrb hj he hsp hpc
  refine ⟨completed (holdEntry i j s), ?_, rfl, rfl, rfl, rfl, rfl, hsp, rfl, rfl, rfl, rfl, rfl, rfl, rfl, rfl⟩
  rw [exec_hold_eq hra hi hrb hj, if_neg (by simp [he]), if_pos hsp]
  exact completeOp_of_lt (holdEntry i j s) hpc

/-- Settles O37: the loaded byte is validated and the operation completes. -/
theorem loadspResult : Obligations.LoadspResult := by
  intro ra i s hra hpc
  simp only [exec, execLoadsp, setPointIndex_of hra]
  exact completeOp_of_lt ((s.cfgLoad i).2.setSp i (validated i (s.env.cfg.read i))) hpc

/-- Settles O38: `END` is the return to Idle. -/
theorem endResult : Obligations.EndResult := fun _ => rfl

/-! ### The obligations: a step -/

/-- A phase operation that waits at `PC` is entered, in one of the rounds (R140). -/
theorem enterFetched_entry {s : State} {i : Instr} (hr : s.run = true) (he : s.entered = false)
    (hd : decodeOp s.fetch = .ok i) (hi : isPhaseOp i = true) (n : Nat) :
    enterFetched (n + 1) s = andThen (exec i s) (enterFetched n) := by
  simp [enterFetched, hr, he, hd, hi]

/-- Settles O49: a step is `exec` and then `afterOp`, which completes what is not the sequencer's own and enters what
waits. -/
theorem stepRunsDecodedOperation : Obligations.StepRunsDecodedOperation := by
  intro s i hdirect hr hd
  rw [step_of_decode hdirect hr hd]
  refine ⟨fun f hx => by rw [hx]; rfl, fun r hx => by rw [hx]; rfl, fun t hx hi hpc => ?_, fun t hx hi => ?_,
    fun n t h => enterFetched_settled ?_ n, fun n t j hrun he hj hphase => enterFetched_entry hrun he hj hphase n⟩
  · rw [hx, andThen_next, afterOp, if_neg (by simp [hi]), completeOp_of_lt t hpc]
    rfl
  · rw [hx, andThen_next, afterOp, if_pos hi]
    rfl
  · obtain hidle | hentered | hno := h
    · exact fun hrun => by simp [hidle] at hrun
    · exact .of_entered hentered
    · exact fun _ _ => hno

end Sys2Proof.Machine
end

section
/-! The frames of the sequencer's operations (44_phases.md R142 to R148, 43_display_dispatch.md R129), and the set points, which
`EDIT` and `LOADSP` alone write (44_phases.md R154). -/

namespace Sys2Proof.Machine

/-- Settles O42: on each path of the four operations, the trap among them, and none of the four is `EDIT`. -/
theorem heatingPhasesFrame : Obligations.HeatingPhasesFrame := by
  intro s t stop ra rb
  refine ⟨fun h => ⟨?_, .of_exec h nofun⟩, fun h => ⟨?_, .of_exec h nofun⟩, fun h => ⟨?_, .of_exec h nofun⟩,
    fun h => ⟨?_, .of_exec h nofun⟩⟩
  · obtain ⟨k, -, ⟨-, rfl⟩ | ⟨-, hv, rfl⟩ | ⟨-, -, -, q, rfl, -⟩⟩ := execHeat_next h
    · rfl
    · rw [trap_eq s hv]
    · dsimp only [tickEnd, tickBody]
  · obtain ⟨k, j, -, -, ⟨-, -, -, rfl⟩ | ⟨-, -, rfl⟩ | ⟨-, hv, rfl⟩ | ⟨-, -, -, q, rfl, -⟩⟩ := execHold_next h
    · rfl
    · rfl
    · rw [trap_eq s hv]
    · dsimp only [tickEnd, tickBody]
  · obtain ⟨-, rfl⟩ | ⟨-, done, -, -, q, rfl, -⟩ := execCool_next h
    · rfl
    · dsimp only [tickEnd]
  · obtain ⟨-, rfl⟩ | ⟨-, done, -, -, q, rfl, -⟩ := execFaultw_next h
    · rfl
    · rfl

/-- A write of one set point leaves the others alone. -/
theorem set_getElem_of_ne {sp : Vector Byte 5} {i j : Fin 5} (x : Byte) (h : j ≠ i) : (sp.set i x)[j] = sp[j] := by
  rw [set_getElem, if_neg h]

/-- Settles O43: what each path of the four operations leaves; `EDIT` and `LOADSP` write the set point their operand
names. -/
theorem setPointOperationsFrame : Obligations.SetPointOperationsFrame := by
  intro s t ra i hra
  refine ⟨fun h => ?_, fun h => ?_, fun h => ?_, fun h => ?_⟩
  · obtain ⟨k, hk, ⟨-, rfl⟩ | ⟨-, x, -, done, -, -, q, m, rfl, hm, -⟩⟩ := execEdit_next h
    · exact ⟨rfl, fun _ _ => ⟨rfl, rfl⟩⟩
    · obtain rfl : i = k := Option.some.inj ((setPointIndex_of hra).symm.trans hk)
      have hread : ∀ j : Fin 5, j ≠ i → m.read j = s.env.cfg.read j := fun j hj => by
        cases done with
        | false => exact congrArg (Memory.read · j) hm
        | true => rw [hm, if_pos rfl, Memory.read_write_other _ _ _ _ hj.symm]
      exact ⟨rfl, fun j hj => ⟨set_getElem_of_ne x hj, hread j hj⟩⟩
  · have hstore : SameStore s t := .of_exec h nofun
    obtain ⟨k, hk, rfl⟩ := execLoadsp_next h
    obtain rfl : i = k := Option.some.inj ((setPointIndex_of hra).symm.trans hk)
    exact ⟨rfl, hstore, fun j hj => set_getElem_of_ne _ hj⟩
  · obtain rfl := next_inj h
    exact ⟨rfl, .of_exec h nofun⟩
  · have hstore : SameStore s t := .of_exec h nofun
    obtain ⟨-, rfl⟩ := completeOp_next h
    exact ⟨rfl, hstore⟩

/-- Settles O44: the frame of every other operation leaves the set points out. -/
theorem onlyEditAndLoadWriteSetPoints : Obligations.OnlyEditAndLoadWriteSetPoints := by
  intro i s t hedit hload h
  have phases (stop ra rb) := heatingPhasesFrame s t stop ra rb
  obtain ⟨-, -, hend, hdinit⟩ := setPointOperationsFrame s t 0 0 rfl
  obtain ⟨hrdtemp, hrdvolt, hdecide, hdrive⟩ := controlOperationsFrame s t
  cases i with
  | edit ra => exact absurd rfl (hedit ra)
  | loadsp ra => exact absurd rfl (hload ra)
  | heat stop ra => exact (congrArg State.sp ((phases stop ra 0).1 h).1 :)
  | hold ra rb => exact (congrArg State.sp ((phases true ra rb).2.1 h).1 :)
  | cool => exact (congrArg State.sp ((phases true 0 0).2.2.1 h).1 :)
  | faultw => exact (congrArg State.sp ((phases true 0 0).2.2.2 h).1 :)
  | endOp => exact (congrArg State.sp (hend h).1 :)
  | dinit => exact (congrArg State.sp (hdinit h).1 :)
  | rdtemp => exact (congrArg State.sp (hrdtemp h).1 :)
  | rdvolt => exact (congrArg State.sp (hrdvolt h).1 :)
  | decideOp => exact (congrArg State.sp (hdecide h).1 :)
  | drive => exact (congrArg State.sp (hdrive h).1 :)
  | _ =>
    obtain ⟨n, f, rfl, -⟩ := exec_sendsOnLink rfl h
    rfl

end Sys2Proof.Machine
end

section
/-! A step of the block always answers (45_modes.md R168, R171); the Idle tick (R165); and the run of BOOT from the reset
vector to Idle (R169, 70_reset_and_hazards.md R206, R207). -/

namespace Sys2Proof.Machine

/-! ### Every operation of the pipelines answers below address 31 (R168) -/

theorem setPoint_lt_of_wellFormed {ra : BitVec 3} (h : (Instr.edit ra).wellFormed = true) : ra.toNat < 5 := by
  simpa [Instr.wellFormed, Instr.defect, Nat.lt_succ_iff] using h

/-- A legal phase operation answers, whether it runs its entry or a tick (44_phases.md R140). -/
theorem exec_phaseOp_answers {i : Instr} {s : State} (hi : isPhaseOp i = true) (hwf : i.wellFormed = true)
    (hpc : s.pc ≠ 31#5) : ∃ t, exec i s = .next t := by
  cases i with
  | edit ra =>
    have hra := setPoint_lt_of_wellFormed hwf
    cases he : s.entered with
    | false => exact ⟨_, (editResult ra ⟨_, hra⟩ s rfl).1 he⟩
    | true => exact exec_edit_answers he hpc (i := ⟨_, hra⟩) rfl
  | heat stop ra =>
    have hra : ra.toNat ≤ 2 := by simpa [Instr.wellFormed, Instr.defect] using hwf
    cases he : s.entered with
    | false => exact ⟨_, heatEntryResult stop ra ⟨ra.toNat, by omega⟩ s rfl hra he⟩
    | true => exact exec_heat_answers he hpc hra stop
  | hold ra rb =>
    obtain ⟨hra, hrb⟩ : ra.toNat ≤ 2 ∧ (rb.toNat = 3 ∨ rb.toNat = 4) := by
      simpa [Instr.wellFormed, Instr.defect, ← or_iff_not_imp_left] using hwf
    cases he : s.entered with
    | false =>
      rw [exec_hold_eq (i := ⟨ra.toNat, by omega⟩) (j := ⟨rb.toNat, by omega⟩) rfl hra rfl (by dsimp only; omega),
        if_neg (by simp [he])]
      split
      · exact ⟨_, completeOp_of_lt (holdEntry _ _ s) hpc⟩
      · exact ⟨_, rfl⟩
    | true => exact exec_hold_answers he hpc hra hrb
  | cool =>
    cases he : s.entered with
    | false => exact ⟨_, (coolResult s).1 he⟩
    | true => exact exec_cool_answers he hpc
  | faultw =>
    cases he : s.entered with
    | false => exact ⟨_, (faultwResult s).1 he⟩
    | true => exact exec_faultw_answers he hpc
  | _ => cases hi

/-- No word of the pipelines stands at address 31 (30_encoding.md R81). -/
theorem ne_31_of_pcReached {pc : BitVec 5} (h : pcReached pc = true) : pc ≠ 31#5 := fun he => by
  rw [he] at h
  exact absurd h (by decide)

/-- The word at `PC` in a run of the block is legal (45_modes.md R168). -/
theorem BlockInv.decodes {s : State} (h : BlockInv s) (hr : s.run = true) : ∃ i, decodeOp s.fetch = .ok i := by
  have ht := romOpTest_fixed s.pc (h.pc hr)
  rw [← State.fetch_fixed h.rom] at ht
  cases hd : decodeOp s.fetch with
  | ok i => exact ⟨i, rfl⟩
  | error d => simp [hd, romOpTest] at ht

/-- The operation at `PC` in a run of the block answers. -/
theorem BlockInv.exec_answers {i : Instr} {s : State} (h : BlockInv s) (hr : s.run = true)
    (hd : decodeOp s.fetch = .ok i) : ∃ t, Machine.exec i s = .next t := by
  have hpc := ne_31_of_pcReached (h.pc hr)
  cases h.romOp hr hd with
  | dinit => exact ⟨_, completeOp_of_lt (s.onPort Port.bringUp) hpc⟩
  | loadsp ra hra h5 => exact ⟨_, loadspResult ra ⟨ra.toNat, by omega⟩ s rfl hpc⟩
  | endOp => exact ⟨_, endResult s⟩
  | phaseOp i hi => exact exec_phaseOp_answers hi (decodeOp_wellFormed _ _ hd) hpc

theorem MidInv.pcReached {s : State} (h : MidInv s) (hr : s.run = true) : pcReached s.pc = true :=
  h.elim (·.pc hr) (·.2.2.pc hr)

/-- The entries that end a step answer, however many follow each other (44_phases.md R140, R152). -/
theorem MidInv.enterFetched_answers (n : Nat) {s : State} (h : MidInv s) : ∃ t, enterFetched n s = .next t := by
  induction n generalizing s with
  | zero => exact ⟨s, rfl⟩
  | succ n ih =>
    by_cases hs : Settled s
    · exact ⟨s, enterFetched_settled hs _⟩
    · simp only [Settled, not_forall, Bool.not_eq_false] at hs
      obtain ⟨hr, he, i, hd, hi⟩ := hs
      obtain ⟨m, hx⟩ := exec_phaseOp_answers hi (decodeOp_wellFormed _ _ hd) (ne_31_of_pcReached (h.pcReached hr))
      obtain ⟨t, ht⟩ := ih (h.entry hr he hd hi hx)
      exact ⟨t, by rw [enterFetched_entry hr he hd hi, hx, andThen_next, ht]⟩

/-- A step where no pipeline runs (45_modes.md R165). -/
theorem step_of_idle {s : State} (hdirect : s.direct = none) (hr : s.run = false) :
    step s = enterFetched entryRounds (idleTick s) := by
  simp [step, runStep, runIdle, hdirect, hr]

/-- A step of the block where a pipeline runs: the fixed ROM holds operations of the sequencer only, so what follows the
operation is the entry of the next. -/
theorem BlockInv.step_of_exec {i : Instr} {s t : State} (h : BlockInv s) (hr : s.run = true)
    (hd : decodeOp s.fetch = .ok i) (hx : Machine.exec i s = .next t) : step s = enterFetched entryRounds t := by
  rw [step_of_decode h.direct hr hd, hx, andThen_next, afterOp, if_pos (h.romOp hr hd).isSequencerOp]

/-- Settles O55: the operation at `PC` answers, or the Idle tick, and so do the entries that end the step. -/
theorem runNeverEnds : Obligations.RunNeverEnds := by
  intro s h
  cases hr : s.run with
  | false =>
    rw [step_of_idle h.direct hr]
    exact MidInv.enterFetched_answers _ (.inl (h.idleTick hr))
  | true =>
    obtain ⟨i, hd⟩ := h.decodes hr
    obtain ⟨m, hx⟩ := h.exec_answers hr hd
    rw [h.step_of_exec hr hd hx]
    exact (h.exec hr hd hx).enterFetched_answers _

/-! ### The Idle tick (R165) -/

/-- A pipeline whose first operation is `EDIT` is started with that operation entered (44_phases.md R140, log 7). -/
theorem enterFetched_edit {s : State} {ra : BitVec 3} (hr : s.run = true) (he : s.entered = false)
    (hd : decodeOp s.fetch = .ok (.edit ra)) (n : Nat) : enterFetched (n + 1) s = .next (markEntered s) := by
  have hra := setPoint_lt_of_wellFormed (decodeOp_wellFormed _ _ hd)
  rw [enterFetched_entry hr he hd rfl, (editResult ra ⟨_, hra⟩ s rfl).1 he, andThen_next]
  exact enterFetched_settled (.of_entered rfl) n

/-- A mode request starts its pipeline at `pc`, in the fixed ROM. -/
theorem enterFetched_request {s : State} {pc : BitVec 5} {ra : BitVec 3} (hrom : s.rom = [])
    (hd : decodeOp (romWord pc.toNat) = .ok (.edit ra)) :
    enterFetched entryRounds { s.pollMode.2 with pc := pc, run := true, entered := false } =
      .next { s with
        env := s.env.mode.2, pc := pc, run := true, first := true, entered := true
        port := { s.port with trace := .pollMode s.env.mode.1 :: s.port.trace } } :=
  enterFetched_edit rfl rfl (by rw [State.fetch_fixed]; exacts [hd, hrom]) _

/-- Settles O50: without a request the block stays in Idle; the pipelines of a request begin with `EDIT`. -/
theorem idleTickResult : Obligations.IdleTickResult := by
  intro s hdirect hr hrom
  rw [step_of_idle hdirect hr]
  refine ⟨fun hm => ?_, fun hm => ?_, fun hm => ?_⟩ <;> simp only [idleTick, State.pollMode_answer, hm] <;> rw [← hm]
  · exact enterFetched_settled (s := s.pollMode.2.emit .delayTick) (fun h => absurd (hr.symm.trans h) (by decide)) _
  · exact enterFetched_request (pc := normalEntry) (ra := 0) hrom (by decide)
  · exact enterFetched_request (pc := curveEntry) (ra := 1) hrom (by decide)

/-! ### BOOT (R169) -/

theorem run_succ_of_step {M : Host.Core} {s m : M.State} (h : M.step s = .next m) (n : Nat) :
    M.run (n + 1) s = M.run n m := by
  rw [Host.Core.run, h]

/-- No phase operation stands in BOOT, so after an operation that ends there no entry follows. -/
theorem MidInv.settled_of_boot {s : State} (h : MidInv s) (hpc : s.pc.toNat ≤ 6) : Settled s := fun hr _ i hd => by
  by_contra hi
  have h7 := ((h.romOp hr hd).of_isPhaseOp (by simpa using hi)).1
  omega

/-- A step of BOOT is the operation at `PC` alone. -/
theorem BlockInv.step_boot {i : Instr} {s t : State} (h : BlockInv s) (hr : s.run = true)
    (hd : decodeOp s.fetch = .ok i) (hx : Machine.exec i s = .next t) (hpc : t.pc.toNat ≤ 6) : step s = .next t :=
  (h.step_of_exec hr hd hx).trans (enterFetched_settled ((h.exec hr hd hx).settled_of_boot hpc) _)

/-- `t` is where BOOT has ended: in Idle at its `END`, with the environment as it was in `s` and `evs` emitted since. -/
structure BootEnd (evs : List Event) (s t : State) : Prop where
  inv : BlockInv t
  idle : t.run = false
  pc : t.pc = 0x06
  env : t.env = s.env
  emitted : Emitted evs s t

theorem BootEnd.after {as evs : List Event} {s m t : State} (h : BootEnd evs m t) (henv : m.env = s.env)
    (hem : Emitted as s m) : BootEnd (as ++ evs) s t :=
  { h with env := h.env.trans henv, emitted := hem.append h.emitted }

/-- The loads of the slots from `k` on, in slot order. -/
def loadsFrom (m : Memory) (k : Nat) : List Event :=
  ((List.finRange 5).drop k).map fun j => .cfgLoad j.val (m.read j)

theorem loadsFrom_of_lt (m : Memory) (k : Fin 5) :
    loadsFrom m k.val = .cfgLoad k.val (m.read k) :: loadsFrom m (k.val + 1) := by
  rw [loadsFrom, List.drop_eq_getElem_cons (by simp), List.map_cons, List.getElem_finRange]
  rfl

/-- The word of BOOT that loads slot `k` (30_encoding.md R81). -/
theorem decodeOp_loadWord : ∀ k : Fin 5, decodeOp (romWord (k.val + 1)) = .ok (.loadsp (BitVec.ofNat 3 k.val)) := by
  decide

/-- The step of BOOT that loads slot `k` (44_phases.md R147). -/
theorem BlockInv.step_load {s : State} (h : BlockInv s) (hr : s.run = true) (k : Fin 5)
    (hpc : s.pc.toNat = k.val + 1) :
    ∃ t, step s = .next t ∧ t.run = true ∧ t.pc.toNat = k.val + 1 + 1 ∧ t.env = s.env ∧
      Emitted [.cfgLoad k.val (s.env.cfg.read k)] s t := by
  have hd := decodeOp_loadWord k
  rw [← hpc, ← State.fetch_fixed h.rom] at hd
  have hx := loadspResult (BitVec.ofNat 3 k.val) k s (Nat.mod_eq_of_lt (by omega)) (ne_31_of_pcReached (h.pc hr))
  have hnext : (s.pc + 1).toNat = k.val + 1 + 1 := by
    rw [BitVec.toNat_add, hpc, show (1 : BitVec 5).toNat = 1 from rfl]
    omega
  exact ⟨_, h.step_boot hr hd hx (by dsimp only; omega), hr, hnext, rfl, rfl⟩

/-- BOOT from the load of slot `k` on, with `n` loads to come, ends in Idle. -/
theorem BlockInv.boot_from {n k : Nat} {s : State} (h : BlockInv s) (hr : s.run = true) (hk : k + n = 5)
    (hpc : s.pc.toNat = k + 1) : ∃ t, core.run (n + 1) s = .next t ∧ BootEnd (loadsFrom s.env.cfg k) s t := by
  induction n generalizing s k with
  | zero =>
    obtain rfl : k = 5 := hk
    have hd : decodeOp s.fetch = .ok .endOp := by rw [State.fetch_fixed h.rom, hpc]; decide
    have hstep := h.step_boot hr hd (endResult s) (le_of_eq hpc)
    exact ⟨_, run_succ_of_step (M := core) hstep 0, stepKeepsBlockInv _ _ h hstep, rfl, BitVec.eq_of_toNat_eq hpc,
      rfl, rfl⟩
  | succ n ih =>
    obtain ⟨m, hstep, hrun, hpc', henv, hem⟩ := h.step_load hr ⟨k, by omega⟩ hpc
    obtain ⟨t, ht, hend⟩ := ih (k := k + 1) (stepKeepsBlockInv _ _ h hstep) hrun (by omega) hpc'
    rw [henv] at hend
    refine ⟨t, (run_succ_of_step (M := core) hstep _).trans ht, ?_⟩
    rw [loadsFrom_of_lt s.env.cfg ⟨k, by omega⟩]
    exact hend.after henv hem

/-- Settles O56: `DINIT`, then the five loads and `END`; the invariant gives what holds in Idle. -/
theorem bootEndsInIdle : Obligations.BootEndsInIdle := by
  intro s h hr hpc
  have hd : decodeOp s.fetch = .ok .dinit := by rw [State.fetch_fixed h.rom, hpc]; decide
  have hx : exec .dinit s = .next (completed (s.onPort Port.bringUp)) :=
    completeOp_of_lt (s.onPort Port.bringUp) (ne_31_of_pcReached (h.pc hr))
  have hpc' : (completed (s.onPort Port.bringUp)).pc.toNat = 0 + 1 := by
    show (s.pc + 1).toNat = 1
    rw [hpc]
    rfl
  have hstep := h.step_boot hr hd hx (by omega)
  obtain ⟨t, ht, hend⟩ := (stepKeepsBlockInv _ _ h hstep).boot_from (n := 5) hr rfl hpc'
  obtain ⟨hinv, hidle, htpc, henv, hem⟩ := hend.after (as := [.dispInit]) (s := s) rfl rfl
  have hphase := State.phase_idle hidle
  exact ⟨t, (run_succ_of_step (M := core) hstep 6).trans ht, hidle, htpc,
    hinv.heater_off (by simp [hphase]) (by simp [hphase]),
    fun i => hinv.setPoints i (by simp [State.loaded, hidle]), fun _ => by rw [henv], hem⟩

end Sys2Proof.Machine
end

section
/-! The under-voltage trap and the fault wait (60_exceptions.md R185 to R188): a control tick below the floor is the trap; a
step of the fault wait is `FAULTW` alone, which renders, polls and waits until Select leads to the `END` after it. -/

namespace Sys2Proof.Machine

/-! ### The trap (R186) -/

theorem target_le_of_wellFormed_heat {stop : Bool} {ra : BitVec 3} (h : (Instr.heat stop ra).wellFormed = true) :
    ra.toNat ≤ 2 := by
  simpa [Instr.wellFormed, Instr.defect] using h

theorem indices_of_wellFormed_hold {ra rb : BitVec 3} (h : (Instr.hold ra rb).wellFormed = true) :
    ra.toNat ≤ 2 ∧ (rb.toNat = 3 ∨ rb.toNat = 4) := by
  simpa [Instr.wellFormed, Instr.defect, ← or_iff_not_imp_left] using h

/-- A control tick below the floor does not look at what would follow: it is the trap (44_phases.md R141). -/
theorem controlTick_trap {s : State} (hv : (tickV s).toNat < 2000) (op : PhaseOp) (k : Buttons → State → Result) :
    controlTick op s k = .next (raiseUndervoltage { s.measure with tr := .fault }) := by
  rw [controlTick_eq, if_pos hv]

/-- Below the floor a tick of `HEAT` and one of `HOLD` are the trap (R141, R186). -/
theorem exec_tick_trap {i : Instr} {s : State} (hi : (∃ stop ra, i = .heat stop ra) ∨ (∃ ra rb, i = .hold ra rb))
    (hwf : i.wellFormed = true) (he : s.entered = true) (hv : (tickV s).toNat < 2000) :
    exec i s = .next (raiseUndervoltage { s.measure with tr := .fault }) := by
  obtain ⟨stop, ra, rfl⟩ | ⟨ra, rb, rfl⟩ := hi
  · exact (execHeat_entered (target_le_of_wellFormed_heat hwf) he).trans (controlTick_trap hv _ _)
  · obtain ⟨hra, hrb⟩ := indices_of_wellFormed_hold hwf
    exact (execHold_entered hra hrb he).trans (controlTick_trap hv _ _)

/-! ### The fault wait (R187, R188) -/

theorem State.fault_of_phase {s : State} (h : s.phase = .fault) : s.run = true ∧ decodeOp s.fetch = .ok .faultw := by
  rw [State.phase] at h
  split at h
  · refine ⟨‹_›, ?_⟩
    cases hd : decodeOp s.fetch with
    | error d => simp [hd, phaseOf] at h
    | ok i => cases i <;> simp [hd, phaseOf] at h ⊢
  · cases h

/-- At `END` the block shows Idle, whether or not it still runs (10_state.md R30). -/
theorem State.phase_of_endOp {s : State} (hd : decodeOp s.fetch = .ok .endOp) : s.phase = .idle := by
  rw [State.phase, hd]
  exact ite_self _

theorem Settled.of_endOp {s : State} (hd : decodeOp s.fetch = .ok .endOp) : Settled s := fun _ _ i hi => by
  cases hd.symm.trans hi
  rfl

theorem Enters.eq_of_settled {s t : State} (h : Enters s t) (hs : Settled s) : t = s := by
  cases h with
  | done => rfl
  | entry hr he hd hi => cases (hs hr he _ hd).symm.trans hi

/-- `FAULTW` is followed by `END` in the fixed ROM (30_encoding.md R81). -/
theorem rom_after_faultw : ∀ pc : BitVec 5, pcReached pc = true → phaseOf (decodeOp (romWord pc.toNat)) = .fault →
    decodeOp (romWord (pc + 1).toNat) = .ok .endOp := by
  decide

/-- `FAULTW` keeps the heater and emits line writes, a poll and a wait: no sample and no `HeaterSet` (R187). -/
theorem exec_faultw_quiet {s t : State} (h : exec .faultw s = .next t) :
    t.heater = s.heater ∧ ∃ evs, Emitted evs s t ∧ NoHeaterSet evs ∧ ∀ ch x, Event.adcRead ch x ∉ evs := by
  obtain ⟨-, rfl⟩ | ⟨-, done, -, -, q, rfl, -, htrace⟩ := execFaultw_next h
  · exact ⟨rfl, [], rfl, by simp [NoHeaterSet], by simp⟩
  · have hsample : ∀ ch x, Event.adcRead ch x ∉ renderEvents (renderContext .faultw none s) := fun ch x hx => by
      simpa [isWire] using renderEvents_isWire _ _ hx
    refine ⟨rfl, _, .of_tick_trace rfl rfl htrace, ?_, fun ch x => ?_⟩
    · refine ((noHeaterSet_renderEvents _).append (by simp [NoHeaterSet])).append ?_
      cases done <;> simp [NoHeaterSet]
    · cases done <;> simp [hsample ch x]

/-- `FAULTW` goes on waiting, or Select has led to the `END` after it (44_phases.md R145, R188). -/
theorem BlockInv.exec_faultw {s t : State} (h : BlockInv s) (hp : s.phase = .fault) (hx : Machine.exec .faultw s = .next t) :
    (t.entered = true ∧ t.phase = .fault) ∨
      (s.env.buttons.1.sel = true ∧ decodeOp t.fetch = .ok .endOp) := by
  obtain ⟨-, rfl⟩ | ⟨-, done, hdone, -, q, rfl, -⟩ := execFaultw_next hx
  · exact .inl ⟨rfl, hp⟩
  · cases done with
    | false => exact .inl ⟨rfl, hp⟩
    | true =>
      have hr := (State.fault_of_phase hp).1
      rw [State.phase_fixed hr h.rom] at hp
      have hend := rom_after_faultw s.pc (h.pc hr) hp
      exact .inr ⟨hdone.symm, by rw [State.fetch_fixed]; exacts [hend, h.rom]⟩

/-- A step of the fault wait is `FAULTW` alone: no entry follows it. -/
theorem BlockInv.step_fault {s t : State} (h : BlockInv s) (hp : s.phase = .fault) (hs : step s = .next t) :
    Machine.exec .faultw s = .next t := by
  obtain ⟨hr, hd⟩ := State.fault_of_phase hp
  obtain ⟨i, m, -, hd', -, hx, ht⟩ | ⟨hidle, -⟩ := step_next h hs
  · cases hd.symm.trans hd'
    have hsettled : Settled m := (h.exec_faultw hp hx).elim (fun hm => .of_entered hm.1) fun hm => .of_endOp hm.2
    rw [ht.eq_of_settled hsettled, hx]
  · cases hr.symm.trans hidle

/-! ### The obligations -/

/-- Settles O57: the step is `FAULTW` alone, which leaves the heater as the invariant has it, off, and leaves the phase
only where Select leads to `END`. -/
theorem faultIsLatched : Obligations.FaultIsLatched := by
  intro s t h hp hs
  have hx := h.step_fault hp hs
  obtain ⟨hheater, hquiet⟩ := exec_faultw_quiet hx
  refine ⟨hheater.trans (h.heater_off (by simp [hp]) (by simp [hp])), fun hleft => ?_, hquiet⟩
  obtain ⟨-, hstays⟩ | ⟨hsel, hend⟩ := h.exec_faultw hp hx
  · exact absurd hstays hleft
  · exact ⟨hsel, State.phase_of_endOp hend⟩

/-- Settles O32: the tick is the trap, and the trap in one record is the state that the rule gives. -/
theorem undervoltageTrapEntry : Obligations.UndervoltageTrapEntry := fun i s hi hwf he hv => by
  rw [exec_tick_trap hi hwf he hv, trap_eq s hv]

end Sys2Proof.Machine
end
